-- ==== Sys2Proof/Word.lean ====
section
/-! DEFINITION. The widths of the joey-m modem core's values (spec/00_scope.md R8; spec/30_encoding.md R63).
All values are unsigned; bit 0 is the least significant. -/

namespace Sys2Proof

/-- 8 bits: buffer bytes, ROM entries, bus bytes, `RBYTE`, `PHASE`, `MASK`. -/
abbrev Byte := BitVec 8

/-- 16 bits: DAC words, `PTR` (ADDR_W = 16), `REM` (CNT_W = 16), checksums. -/
abbrev Word16 := BitVec 16

/-- The 4-bit DAC channel id `cccc` of the command byte (R72). -/
abbrev ChannelId := BitVec 4

/-- Format `HC`, the 40-bit host command word (R64). -/
abbrev HcWord := BitVec 40

/-- The 32-bit operand part `arg` of a host command word (R64). -/
abbrev ArgWord := BitVec 32

/-- Format `ST`, the 32-bit status word (R35). -/
abbrev StWord := BitVec 32

/-- Format `DF`, the 24-bit DAC bus frame, first byte in bits 23:16 (R69). -/
abbrev DfWord := BitVec 24

end Sys2Proof
end

