-- ==== Sys2Proof/Syntax.lean ====
section
/-! DEFINITION. The operations of spec/opcode_table.json, one constructor a row (spec/30_encoding.md R65, R68, R82),
and the encoded forms in which they arrive (R63). -/

namespace Sys2Proof

/-- One constructor per row of the opcode table: eight host commands (R65), three events (R68), two DAC bus frames
(R70, R71). Operands have the widths of R66. -/
inductive Instr where
  | setFsk
  | setAfsk
  | setBaud (preset : BitVec 1)
  | rttySend (byte : Byte)
  | binSend (base bitCount : Word16)
  | dacWrite (channel : ChannelId) (value : Word16)
  | dacOff
  | rdStatus
  | symFire
  | smpFire
  | reset
  | dacwr (channel : ChannelId) (value : Word16)
  | dacoff
  deriving DecidableEq, Repr

/-- The three one-bit input lines (R68). -/
inductive EvLine where
  | symFire
  | smpFire
  | reset
  deriving DecidableEq, Repr

/-- An encoded operation at the port its format belongs to (R63): a command word, the level of a strobe line (1 is a
pulse), a bus frame. -/
inductive Wire where
  | hc (w : HcWord)
  | ev (line : EvLine) (level : BitVec 1)
  | df (w : DfWord)
  deriving DecidableEq, Repr

/-- Why the decoder reads no operation. -/
inductive DecodeError where
  /-- The operation code is not one of 0x01 to 0x08 (R76). -/
  | unknownOp
  /-- An `arg` bit that R66 does not name is 1 (R76). -/
  | argBits
  /-- The strobe line carries no pulse (R68): not an event. -/
  | noPulse
  /-- The frame is neither R70's nor R71's (R77). -/
  | foreignFrame
  deriving DecidableEq, Repr

end Sys2Proof
end

