-- ==== Sys2Proof/Decode.lean ====
section
/-! DEFINITION. The decoder and the encoder, both from spec/30_encoding.md: host command words R64 to R66 and R76,
event strobes R68, bus frames R69 to R72 and R77; and the host's numbering of table words. -/

namespace Sys2Proof

/-- `op`, bits 39:32 of a command word (R64). -/
def hcOp (w : HcWord) : Byte := w.extractLsb' 32 8

/-- `arg`, bits 31:0 of a command word (R64). -/
def hcArg (w : HcWord) : ArgWord := w.extractLsb' 0 32

/-- The command word with these two fields (R64). -/
def hcWord (op : Byte) (arg : ArgWord) : HcWord := op ++ arg

/-- Accept `i` if every `arg` bit that R66 does not name (the bits set in `unnamed`) is 0. -/
def whenArgClear (unnamed arg : ArgWord) (i : Instr) : Except DecodeError Instr :=
  if arg &&& unnamed = 0 then .ok i else .error .argBits

/-- The command a word encodes (R65, R66), or why none (R76). The channel of `DAC_WRITE` is judged against the
configuration by `Instr.wellFormed` and by the command itself. -/
def decodeHc (w : HcWord) : Except DecodeError Instr :=
  let arg := hcArg w
  if hcOp w = 0x01 then whenArgClear 0xFFFFFFFF arg .setFsk
  else if hcOp w = 0x02 then whenArgClear 0xFFFFFFFF arg .setAfsk
  else if hcOp w = 0x03 then whenArgClear 0xFFFFFFFE arg (.setBaud (arg.extractLsb' 0 1))
  else if hcOp w = 0x04 then whenArgClear 0xFFFFFF00 arg (.rttySend (arg.extractLsb' 0 8))
  else if hcOp w = 0x05 then whenArgClear 0x00000000 arg (.binSend (arg.extractLsb' 16 16) (arg.extractLsb' 0 16))
  else if hcOp w = 0x06 then whenArgClear 0xFFF00000 arg (.dacWrite (arg.extractLsb' 16 4) (arg.extractLsb' 0 16))
  else if hcOp w = 0x07 then whenArgClear 0xFFFFFFFF arg .dacOff
  else if hcOp w = 0x08 then whenArgClear 0xFFFFFFFF arg .rdStatus
  else .error .unknownOp

/-- The event of a strobe line: "each an event when it pulses" (R68). -/
def decodeEv (line : EvLine) (level : BitVec 1) : Except DecodeError Instr :=
  if level = 1 then
    match line with
    | .symFire => .ok .symFire
    | .smpFire => .ok .smpFire
    | .reset => .ok .reset
  else .error .noPulse

/-- The bus frame of 24 bits (R70: match 0x300000, mask 0xF00000; R71: 0x4F0000 exactly). -/
def decodeDf (w : DfWord) : Except DecodeError Instr :=
  if w.extractLsb' 20 4 = 0x3 then .ok (.dacwr (w.extractLsb' 16 4) (w.extractLsb' 0 16))
  else if w = 0x4F0000 then .ok .dacoff
  else .error .foreignFrame

/-- The decoder: total, one format per port (R63). -/
def decode : Wire → Except DecodeError Instr
  | .hc w => decodeHc w
  | .ev line level => decodeEv line level
  | .df w => decodeDf w

/-- `SET_BAUD`'s operand: `arg[0]` (R66). -/
def argSetBaud (preset : BitVec 1) : ArgWord := preset.setWidth 32

/-- `RTTY_SEND`'s operand: `arg[7:0]` (R66). -/
def argRttySend (byte : Byte) : ArgWord := byte.setWidth 32

/-- `BIN_SEND`'s operands: `arg[31:16]`, `arg[15:0]` (R66). -/
def argBinSend (base bitCount : Word16) : ArgWord := base ++ bitCount

/-- `DAC_WRITE`'s operands: `arg[19:16]`, `arg[15:0]` (R66). -/
def argDacWrite (channel : ChannelId) (value : Word16) : ArgWord := 0#12 ++ channel ++ value

/-- The encoder, from the tables of R65, R66, R68, R70 and R71. -/
def encode : Instr → Wire
  | .setFsk => .hc (hcWord 0x01 0)
  | .setAfsk => .hc (hcWord 0x02 0)
  | .setBaud preset => .hc (hcWord 0x03 (argSetBaud preset))
  | .rttySend byte => .hc (hcWord 0x04 (argRttySend byte))
  | .binSend base bitCount => .hc (hcWord 0x05 (argBinSend base bitCount))
  | .dacWrite channel value => .hc (hcWord 0x06 (argDacWrite channel value))
  | .dacOff => .hc (hcWord 0x07 0)
  | .rdStatus => .hc (hcWord 0x08 0)
  | .symFire => .ev .symFire 1
  | .smpFire => .ev .smpFire 1
  | .reset => .ev .reset 1
  | .dacwr channel value => .df (0x3#4 ++ channel ++ value)
  | .dacoff => .df 0x4F0000

/-- The strobe lines as the bits of one byte, in R68's order (`sym_fire` bit 0, `smp_fire` bit 1, `reset` bit 2).
The table gives all three event rows the word 1 on lines of their own, so that one number cannot tell them apart:
the word 1 is read as `sym_fire`. DESIGN CHOICE, log 3. -/
def evOfByte (w : Nat) : Wire :=
  if w.testBit 0 then .ev .symFire 1
  else if w.testBit 1 then .ev .smpFire 1
  else if w.testBit 2 then .ev .reset 1
  else .ev .symFire 0

/-- The port and the word for `nbits` bits of the opcode table: 40 for `HC`, 24 for `DF`, one byte for `EV`. -/
def wireOfTableWord (nbits w : Nat) : Wire :=
  if nbits ≤ 8 then evOfByte w
  else if nbits ≤ 24 then .df (BitVec.ofNat 24 w)
  else .hc (BitVec.ofNat 40 w)

/-- What the decoder reads from a word numbered as spec/opcode_table.json numbers it. -/
def decodeTableWord (nbits w : Nat) : Option Instr := (decode (wireOfTableWord nbits w)).toOption

end Sys2Proof
end

