-- ==== Sys2Proof/Config.lean ====
section
/-! DEFINITION. The implementation parameters (spec/00_scope.md R6), the spec's reference instance REF (R6,
spec/20_memory.md R46), and the free values the spec leaves open.

`ADDR_W` and `CNT_W` have the spec's value 16 (D5) and are the width `Word16` (log 17). -/

namespace Sys2Proof

/-- The parameters of R6, "the model takes them as an argument": plain data, and the constraints of R6 and R7 are
the check `Machine.configOk`, without which no step runs. `PERIOD` is derived (`Config.period`). -/
structure Config where
  /-- `RTTY_BITS` (W), 7 or 8. -/
  rttyBits : Nat
  /-- `RTTY_STOP` (S), 1 or 2. -/
  rttyStop : Nat
  /-- `HALF`, the entries of the sine ROM. -/
  half : Nat
  /-- `MAX_MAG`, the `max` of the reflection. -/
  maxMag : Byte
  /-- `SINE_ROM[0..HALF-1]`, index 0 first. -/
  sineRom : List Byte
  /-- `MARK_STEP`, the phase step of the mark tone. -/
  markStep : Byte
  /-- `SPACE_STEP`, the phase step of the space tone. -/
  spaceStep : Byte
  /-- `FSK_SHIFT`, the DAC value of mark in FSK mode. -/
  fskShift : Word16
  /-- `BASE_FREQ`, the base carrier word of the host's `BOOT` (R175). -/
  baseFreq : Word16
  /-- `CH_COARSE`. -/
  chCoarse : ChannelId
  /-- `CH_FINE`. -/
  chFine : ChannelId
  /-- `DIV_50`: timing only, no rule's result depends on it (R161). -/
  div50 : Nat
  /-- `DIV_300`: timing only. -/
  div300 : Nat
  /-- `F_SAMPLE`: timing only. -/
  fSample : Nat
  /-- Whether the configuration asks for the StepTable ramp, which a model must refuse (R122). -/
  stepTableRamp : Bool
  deriving DecidableEq, Repr

/-- `PERIOD` = 2 * HALF (R6). -/
def Config.period (c : Config) : Nat := 2 * c.half

/-- The reference ROM of R46, entries 0 to 69. The spec's own test table: nothing about the real beacon. -/
def refRomLow : List Byte :=
  [128, 131, 134, 137, 140, 143, 147, 150, 153, 156] ++
  [159, 162, 165, 168, 171, 174, 177, 180, 183, 186] ++
  [189, 192, 194, 197, 200, 202, 205, 208, 210, 212] ++
  [215, 217, 219, 222, 224, 226, 228, 230, 232, 233] ++
  [235, 237, 238, 240, 241, 243, 244, 245, 247, 248] ++
  [249, 250, 251, 251, 252, 253, 253, 254, 254, 255] ++
  [255, 255, 255, 255, 255, 255, 255, 254, 254, 253]

/-- The reference ROM of R46, entries 70 to 124. -/
def refRomHigh : List Byte :=
  [253, 252, 251, 251, 250, 249, 248, 247, 245, 244] ++
  [243, 241, 240, 238, 237, 235, 233, 232, 230, 228] ++
  [226, 224, 222, 219, 217, 215, 212, 210, 208, 205] ++
  [202, 200, 197, 194, 192, 189, 186, 183, 180, 177] ++
  [174, 171, 168, 165, 162, 159, 156, 153, 150, 147] ++
  [143, 140, 137, 134, 131]

/-- The reference instance REF of R6 with W = 7 and S = 2 (REF uses both widths). DESIGN CHOICE, log 2: no statement
rests on these numbers. -/
def Config.ref : Config where
  rttyBits := 7
  rttyStop := 2
  half := 125
  maxMag := 255
  sineRom := refRomLow ++ refRomHigh
  markStep := 4
  spaceStep := 7
  fskShift := 0x0120
  baseFreq := 0x8000
  chCoarse := 0
  chFine := 1
  div50 := 0
  div300 := 0
  fSample := 0
  stepTableRamp := false

/-- A free value: what one of the DAC device's channel registers holds when the spec does not say (R173; log 9). -/
opaque Config.freeChannel : Nat → Option Word16

/-- A free value: the DAC device's flag `DAC_ON` when the spec does not say (R173; log 9). -/
opaque Config.freeFlag : Nat → Bool

end Sys2Proof
end

