-- ==== Sys2Proof/Machine/State.lean ====
section
/-! DEFINITION. The state: the fifteen registers of spec/10_state.md R13, the state outside them that matters to a
run (R39, R41, R47), the host agent (spec/44_host_sequences.md), and the records of what goes in and out. -/

namespace Sys2Proof.Machine

/-- `TXS` (R22): 3 is never written and has no constructor. -/
inductive TxState where
  | idle
  | rtty
  | binary
  deriving DecidableEq, Repr

/-- `MODE` (R31). -/
inductive Mode where
  | fsk
  | afsk
  deriving DecidableEq, Repr

/-- `BAUD` (R32): the ~50 and the ~300 baud preset. -/
inductive Baud where
  | baud50
  | baud300
  deriving DecidableEq, Repr

/-- The events of the output trace (R10). -/
inductive Event where
  | sym (b : Bool)
  | csAssert
  | byte (x : Byte)
  | csRelease
  | wdtKick
  deriving DecidableEq, Repr

/-- The payload buffer space (R42) as (address, byte) pairs, addresses strictly rising (`Memory.wf`). An unlisted
address has no value: DESIGN CHOICE, log 5. -/
abbrev Memory := List Host.Cell

/-- The buffer the host declared (R43, R148 V4): `length` bytes from `start`. -/
structure Region where
  start : Word16
  length : Nat
  deriving DecidableEq, Repr

/-- The minimal device model of R47: two channel registers, each unwritten until first written, and `DAC_ON`;
and whether a frame was cut short by a reset (R173). -/
structure DacDevice where
  coarse : Option Word16
  fine : Option Word16
  powered : Bool
  cutFrame : Bool
  deriving DecidableEq, Repr

/-- One operation of the host agent's procedures (R81, R134, R136): a command, a wait, the host's own watchdog
reset (R142). -/
inductive HostOp where
  | command (i : Instr)
  | waitDone
  | waitRem0
  | wdtReset
  deriving DecidableEq, Repr

/-- A call of one of the host's procedures: `TX_STRING`, `TX_SENTENCE`, `TX_BINARY` (R136, R137, R141), `BOOT` with
its optional steps 2 and 3 (R175). -/
inductive HostCall where
  | txString (text : List Byte)
  | txSentence (text : List Byte)
  | txBinary (base bitCount : Word16)
  | boot (preset : Option (BitVec 1)) (mode : Option Mode)
  deriving DecidableEq, Repr

/-- What can arrive at the block or at its environment, one a step: an encoded operation at its port; the bus's
coming answers (R125); the host declaring and filling a buffer (R43) or writing one byte of it (R44); a call of a
host procedure; a turn of the host agent. -/
inductive Arrival where
  | wire (w : Wire)
  | busAnswer (completes : Option Nat)
  | declareBuffer (start : Word16) (bytes : List Byte)
  | poke (addr : Word16) (x : Byte)
  | call (c : HostCall)
  | hostTurn
  deriving DecidableEq, Repr

/-- The violations of R148 that a model treats as a fault, and V6. All are safe: the model stops where the hardware
goes on. -/
inductive Fault where
  /-- V1, by `SET_FSK`, `SET_AFSK`, `SET_BAUD`, `DAC_WRITE`, `DAC_OFF`, and by their frames `DACWR`, `DACOFF` (log 4);
  records the command word. Safe. -/
  | configWhileBusy (word : HcWord)
  /-- V2, by `RTTY_SEND`, `BIN_SEND`; records the command word. Safe. -/
  | startWhileBusy (word : HcWord)
  /-- V3, by a host write to the declared buffer while `TXS != 0` (R56), or from `BIN_SEND` until the host has observed
  `REM = 0` (R44); records the address. Safe. -/
  | bufferTouched (addr : Word16)
  /-- V4, by `SYM_FIRE`'s binary arm; records `PTR`. Safe. -/
  | bufferOverrun (ptr : Word16)
  /-- V5, by `SYM_FIRE`'s binary arm; records `PTR`. Safe. -/
  | pointerWrap (ptr : Word16)
  /-- V6, by the host and the writer in a state whose bus transaction hangs; records the bytes already sent. Safe. -/
  | busStall (sent : List Byte)
  /-- The model's own, by `SYM_FIRE`: a byte of the declared region that was never written; no run from reset reaches
  it (log 5). Safe. -/
  | unwrittenByte (addr : Word16)
  /-- The model's own, by `SMP_FIRE`: a ROM index outside 0..HALF-1, "never produced" (R45; log 15). Safe. -/
  | romIndex (phase : Byte)
  deriving DecidableEq, Repr

/-- What has no step. All are safe. -/
inductive Refusal where
  /-- An instruction that has no meaning yet. Safe. -/
  | notModelled (mnemonic : String)
  /-- V7, by `BIN_SEND` (R88, R148). Safe. -/
  | zeroBitCount (word : HcWord)
  /-- V8, by an illegal command word (R76, R148). Safe. -/
  | illegalCommand (word : HcWord)
  /-- By a bus frame the block never emits (R77). Safe. -/
  | foreignFrame (frame : DfWord)
  /-- By every step of a configuration that breaks a constraint (R7). Safe. -/
  | illegalConfig
  /-- By every step of a configuration that asks for the StepTable ramp (R122). Safe. -/
  | stepTableRamp
  /-- By `TX_SENTENCE` of a text with no `$` (R140), at the call (log 23). Safe. -/
  | noDelimiter
  /-- By declaring a buffer that does not fit the 2^16-byte space (R42). Safe. -/
  | bufferOutsideSpace (start : Word16) (length : Nat)
  deriving DecidableEq, Repr

/-- The state. The fifteen registers come first, in the order of spec/10_state.md; R13 says they are the block's
whole state, and the rest is its parameters, its environment and its records. -/
structure State where
  /-- `RBYTE` (R14). -/
  rbyte : Byte
  /-- `TONE` (R15): true is mark. -/
  tone : Bool
  /-- `PHASE` (R16). -/
  phase : Byte
  /-- `DACLAST` (R17). -/
  daclast : Word16
  /-- `TXS` (R22). -/
  txs : TxState
  /-- `TOG` (R23). -/
  tog : Bool
  /-- `POS` (R24). -/
  pos : BitVec 4
  /-- `PTR` (R25). -/
  ptr : Word16
  /-- `MASK` (R26). -/
  mask : Byte
  /-- `REM` (R27). -/
  rem : Word16
  /-- `DONE` (R29). -/
  done : Bool
  /-- `MODE` (R31). -/
  mode : Mode
  /-- `BAUD` (R32). -/
  baud : Baud
  /-- `SCH_EN` (R33). -/
  schEn : Bool
  /-- `SYN_EN` (R34). -/
  synEn : Bool
  /-- The parameters (R6): no step writes them. -/
  cfg : Config
  /-- The payload buffer space (R42). -/
  mem : Memory
  /-- The declared buffer (R43). -/
  region : Region
  /-- R44's windows: the regions the host must leave alone, those of each `BIN_SEND` after which it has not observed
  `REM = 0` yet. The host's, not the block's (log 19). -/
  bufferHeld : List Region
  /-- The DAC device (R47). -/
  dac : DacDevice
  /-- The bus's coming answers (R125): `none` always completes, `some k` completes k more transfers and no other. -/
  bus : Option Nat
  /-- The hung transaction (R39 (a), R128): the bytes it had sent. -/
  stall : Option (List Byte)
  /-- The output trace (R10), earliest first. -/
  trace : List Event
  /-- The responses on the status port (R67), earliest first. -/
  answers : List StWord
  /-- The host agent's remaining operations (R133). -/
  script : List HostOp
  /-- The host's own watchdog resets so far (R142). -/
  hostKicks : Nat
  /-- What arrives, in step order (R80, R154). -/
  inbox : List Arrival
  /-- The model's own: which free value is next (log 9). -/
  freeCount : Nat
  deriving DecidableEq, Repr

/-- The machine of a configuration right after power-on reset (R40, R172, R174): the block Idle, both tick sources
masked, the DAC device unwritten, nothing declared, nothing arrived. -/
def State.resetWith (c : Config) : State where
  rbyte := 0
  tone := true
  phase := 0
  daclast := 0
  txs := .idle
  tog := false
  pos := 0
  ptr := 0
  mask := 0x80
  rem := 0
  done := false
  mode := .fsk
  baud := .baud50
  schEn := false
  synEn := false
  cfg := c
  mem := []
  region := { start := 0, length := 0 }
  bufferHeld := []
  dac := { coarse := none, fine := none, powered := true, cutFrame := false }
  bus := none
  stall := none
  trace := []
  answers := []
  script := []
  hostKicks := 0
  inbox := []
  freeCount := 0

/-- The machine right after reset, at the reference instance (log 2). -/
def State.reset : State := State.resetWith Config.ref

end Sys2Proof.Machine
end

