-- ==== Sys2Proof/Machine/Flags.lean ====
section
/-! DEFINITION. The one-bit state as numbers, the status word (spec/10_state.md R35), the conditions commands and
fires test (spec/40_host_commands.md R92; spec/42_tone_synth.md R113), and completion (R105). There are no arithmetic
condition codes (R30). -/

namespace Sys2Proof.Machine

/-- The codes of `TXS` (R22). -/
def TxState.code : TxState → BitVec 2
  | .idle => 0
  | .rtty => 1
  | .binary => 2

/-- The codes of `MODE` (R31). -/
def Mode.code : Mode → BitVec 1
  | .fsk => 0
  | .afsk => 1

/-- The codes of `BAUD` (R32). -/
def Baud.code : Baud → BitVec 1
  | .baud50 => 0
  | .baud300 => 1

/-- The preset an operand bit selects (R86). -/
def baudOf (preset : BitVec 1) : Baud := if preset = 1 then .baud300 else .baud50

/-- The status word (R35): `{ REM, 0[8:0], BAUD, MODE, SYN_EN, SCH_EN, TXS, DONE }` (R91). -/
def statusWord (s : State) : StWord :=
  s.rem ++ 0#9 ++ s.baud.code ++ s.mode.code ++ BitVec.ofBool s.synEn ++ BitVec.ofBool s.schEn ++ s.txs.code ++
    BitVec.ofBool s.done

/-- `DONE` in a status word, bit 0 (R35). -/
def statusDone (w : StWord) : Bool := w.getLsbD 0

/-- `REM` in a status word, bits 31:16 (R35). -/
def statusRem (w : StWord) : Word16 := w.extractLsb' 16 16

/-- "Idle" of R92. -/
def isIdle (s : State) : Bool := s.txs == .idle

/-- "Synth running" of R92; also the working condition of a sample fire (R113). -/
def synthRunning (s : State) : Bool := s.mode == .afsk && s.synEn

/-- The divisor `BAUD` selects for the symbol timer (R107, R161). The timer is outside; no step reads it. -/
def symbolDivisor (s : State) : Nat :=
  match s.baud with
  | .baud50 => s.cfg.div50
  | .baud300 => s.cfg.div300

/-- `Complete()` (R105). -/
def complete (s : State) : State := { s with schEn := false, done := true, txs := .idle }

/-- Whether the binary tick is the final one (R101): the decremented counter is 0. -/
def lastBit (rem : Word16) : Bool := rem - 1 == 0

/-- Whether the RTTY tick is the final one (R102): `POS = W + S`. -/
def lastPosition (c : Config) (pos : BitVec 4) : Bool := pos.toNat == c.rttyBits + c.rttyStop

end Sys2Proof.Machine
end

