-- ==== Sys2Proof/WellFormed.lean ====
section
/-! DEFINITION. Which terms of `Instr` are legal operations: the operand ranges that a field's width does not
already give (spec/30_encoding.md R66, R76, R77). -/

namespace Sys2Proof

/-- "The source's DacChannel has exactly two members" (R76). -/
def Config.channelLegal (c : Config) (ch : ChannelId) : Bool := ch == c.chCoarse || ch == c.chFine

/-- The operand ranges of R66: the channel of `DAC_WRITE` is `CH_COARSE` or `CH_FINE`, `bit_count` is 1..65535; and
the channel of an emitted frame likewise (R77). -/
def Instr.wellFormed (c : Config) : Instr → Bool
  | .setFsk => true
  | .setAfsk => true
  | .setBaud _ => true
  | .rttySend _ => true
  | .binSend _ n => n != 0
  | .dacWrite ch _ => c.channelLegal ch
  | .dacOff => true
  | .rdStatus => true
  | .symFire => true
  | .smpFire => true
  | .reset => true
  | .dacwr ch _ => c.channelLegal ch
  | .dacoff => true

end Sys2Proof
end

