-- ==== Sys2Proof/Machine/Operands.lean ====
section
/-! DEFINITION. Where operands come from: bytes of a word, the payload buffer (spec/20_memory.md R42), the sine ROM
(R45), the bit each framer selects (R49, R50), and the parameters' constraints (spec/00_scope.md R7). -/

namespace Sys2Proof.Machine

/-- `v[15:8]` (R48). -/
def hiByte (v : Word16) : Byte := v.extractLsb' 8 8

/-- `v[7:0]` (R48). -/
def loByte (v : Word16) : Byte := v.extractLsb' 0 8

/-- The command byte `0x30 | channel` (R72, R124). -/
def writeCommandByte (ch : ChannelId) : Byte := 0x30 ||| ch.setWidth 8

/-- Whether a table has exactly `n` entries. -/
def holdsEntries : List Byte → Nat → Bool
  | [], n => n == 0
  | _ :: rest, n => n != 0 && holdsEntries rest (n - 1)

/-- The constraints of R6 and R7, with the StepTable ramp not asked for (R122). -/
def configOk (c : Config) : Bool :=
  (c.rttyBits == 7 || c.rttyBits == 8) && (c.rttyStop == 1 || c.rttyStop == 2) &&
  decide (1 ≤ c.half) && decide (c.half ≤ 128) &&
  holdsEntries c.sineRom c.half && c.sineRom.all (fun e => decide (e.toNat ≤ c.maxMag.toNat)) &&
  decide (1 ≤ c.markStep.toNat) && decide (c.markStep.toNat ≤ c.half) &&
  decide (1 ≤ c.spaceStep.toNat) && decide (c.spaceStep.toNat ≤ c.half) &&
  c.markStep != c.spaceStep && c.chCoarse != c.chFine && !c.stepTableRamp

/-- Why a configuration has no step: the ramp (R122), else a broken constraint (R7). -/
def configRefusal (c : Config) : Refusal := if c.stepTableRamp then .stepTableRamp else .illegalConfig

/-- `MemRead(addr, 1)` (R42); an address the host never wrote has no value (log 5). -/
def Memory.read (m : Memory) (a : Nat) : Option Byte :=
  match m with
  | [] => none
  | (b, x) :: rest => if a = b then some x else Memory.read rest a

/-- The canonical form: addresses strictly rising and inside the 2^16-byte space. -/
def Memory.wf (m : Memory) : Bool :=
  match m with
  | [] => true
  | (a, _) :: rest => decide (a < 65536) && rest.all (fun cell => decide (a < cell.1)) && Memory.wf rest

/-- One byte written, in canonical form. -/
def Memory.write (m : Memory) (a : Nat) (x : Byte) : Memory :=
  match m with
  | [] => [(a, x)]
  | (b, y) :: rest =>
    if a < b then (a, x) :: (b, y) :: rest
    else if a = b then (a, x) :: rest
    else (b, y) :: Memory.write rest a x

/-- Bytes written to ascending addresses from `a`. -/
def Memory.writeBytes (m : Memory) (a : Nat) (bytes : List Byte) : Memory :=
  match bytes with
  | [] => m
  | x :: rest => Memory.writeBytes (Memory.write m a x) (a + 1) rest

/-- Whether an address lies in the declared buffer (R43). -/
def Region.contains (r : Region) (a : Nat) : Bool := decide (r.start.toNat ≤ a) && decide (a < r.start.toNat + r.length)

/-- The bytes a `BIN_SEND` makes the block read (R43): `ceil(n / 8)` of them from `base`. -/
def frameRegion (base bitCount : Word16) : Region := { start := base, length := (bitCount.toNat + 7) / 8 }

/-- `Rom(i)` (R45); no value outside 0..HALF-1. -/
def rom (c : Config) (i : Nat) : Option Byte := c.sineRom[i]?

/-- The binary framer's bit (R101): 1 when `byte AND MASK` is not 0. -/
def maskedBit (x mask : Byte) : Bool := x &&& mask != 0

/-- The RTTY framer's bit at a frame position (R102): start bit, data bits least significant first, stop bits. -/
def rttyBit (c : Config) (rbyte : Byte) (pos : BitVec 4) : Bool :=
  if pos = 0 then false
  else if pos.toNat ≤ c.rttyBits then rbyte.getLsbD (pos.toNat - 1)
  else true

/-- `FskWord(b)` (R104). -/
def fskWord (c : Config) (b : Bool) : Word16 := if b then c.fskShift else 0x0000

/-- `StepOf(t)` (R114). -/
def stepOf (c : Config) (t : Bool) : Byte := if t then c.markStep else c.spaceStep

/-- `Advance(p, step)` (R115): a 9-bit sum and one conditional subtraction of PERIOD. -/
def advance (c : Config) (p step : Byte) : Byte :=
  let sum : BitVec 9 := p.setWidth 9 + step.setWidth 9
  if c.period ≤ sum.toNat then (sum - BitVec.ofNat 9 c.period).setWidth 8 else sum.setWidth 8

/-- `Magnitude(p)` (R116): lookup by symmetry; no value if the ROM index is out of range. -/
def magnitude (c : Config) (p : Byte) : Option Byte :=
  if p.toNat < c.half then rom c p.toNat else (rom c (p.toNat - c.half)).map (fun x => c.maxMag - x)

/-- The DAC word `{mag, 0x00}` (R117). -/
def sampleWord (mag : Byte) : Word16 := mag ++ 0x00#8

end Sys2Proof.Machine
end

