-- ==== Sys2Proof/Machine/Ops.lean ====
section
/-! DEFINITION. The shared operations: the conditions under which an agent may act (spec/40_host_commands.md R92,
spec/43_dac_writer.md R128), the bus transaction and the device behind it (R124 to R127, spec/20_memory.md R47), the
DAC writer (R124, R126), the modulator (R103), and the register part of reset (R172).

The block takes no exception and returns from none (spec/60_exceptions.md R147, R155, R157), so there is no entry
operation here; a violation is an outcome. -/

namespace Sys2Proof.Machine

/-- What a meaning answers. -/
abbrev Result := Host.Outcome State Fault Refusal

/-- The host and the writer are blocked while a bus transaction hangs (R128; log 10). -/
def whenLive (s : State) (r : Result) : Result :=
  match s.stall with
  | some sent => .fault (.busStall sent)
  | none => r

/-- A command legal only while `TXS = 0` (R92), else the violation `f`. -/
def whenIdle (f : Fault) (s : State) (r : Result) : Result := if isIdle s then r else .fault f

/-- A command that uses the DAC bus: legal while `TXS = 0` and the synthesizer is not running, else V1 (R89, R92). -/
def whenBusFree (word : HcWord) (s : State) (r : Result) : Result :=
  if isIdle s && !synthRunning s then r else .fault (.configWhileBusy word)

/-- `emit` (R9). -/
def emit (events : List Event) (s : State) : State := { s with trace := s.trace ++ events }

/-- The device's contents when the spec does not give them: free values from number `n` on (log 9). -/
def DacDevice.unknown (n : Nat) (cut : Bool) : DacDevice where
  coarse := Config.freeChannel n
  fine := Config.freeChannel (n + 1)
  powered := Config.freeFlag (n + 2)
  cutFrame := cut

/-- What the device makes of a whole frame (R47): a write sets its channel, a power-off clears `DAC_ON`, and nothing
sets `DAC_ON` again (D39; log 8). After a frame cut short by a reset, nothing is known of it (R173; log 9); a frame
that is neither a channel's write nor the power-off is outside the device model (R77), and no meaning sends one. -/
def DacDevice.frame (c : Config) (n : Nat) (d : DacDevice) (b0 b1 b2 : Byte) : DacDevice :=
  if d.cutFrame then DacDevice.unknown n true
  else if b0 = writeCommandByte c.chCoarse then { d with coarse := some (b1 ++ b2) }
  else if b0 = writeCommandByte c.chFine then { d with fine := some (b1 ++ b2) }
  else if b0 = 0x4F ∧ b1 = 0x00 ∧ b2 = 0x00 then { d with powered := false }
  else DacDevice.unknown n false

/-- A whole frame (R124, R126, R127): one bracket, three bytes, contiguous; the device sees it at its end (R53). -/
def wholeFrame (b0 b1 b2 : Byte) (s : State) : State :=
  { emit [.csAssert, .byte b0, .byte b1, .byte b2, .csRelease] s with
    dac := s.dac.frame s.cfg s.freeCount b0 b1 b2
    bus := s.bus.map (· - 3)
    freeCount := s.freeCount + 3 }

/-- A frame whose transfer number `k` (from 0) never completes (R125, R128): the events so far stay emitted and
`CsRelease` never comes. -/
def hungFrame (k : Nat) (b0 b1 b2 : Byte) (s : State) : State :=
  { emit (.csAssert :: ([b0, b1, b2].take k).map .byte) s with
    bus := some 0
    stall := some ([b0, b1, b2].take k) }

/-- One bus transaction and then the caller's remaining work `after`, which a hang leaves undone: "stops at a byte
transfer with its earlier events emitted and its register writes not yet made" (R155). -/
def transact (b0 b1 b2 : Byte) (s : State) (after : State → State) : State :=
  match s.bus with
  | none => after (wholeFrame b0 b1 b2 s)
  | some k => if 3 ≤ k then after (wholeFrame b0 b1 b2 s) else hungFrame k b0 b1 b2 s

/-- `DACLAST <- v` for a write to `CH_FINE` (R130). -/
def recordFine (ch : ChannelId) (v : Word16) (s : State) : State :=
  if ch = s.cfg.chFine then { s with daclast := v } else s

/-- `DacWrite(ch, v)` (R124), then the caller's remaining work. -/
def dacWriteThen (ch : ChannelId) (v : Word16) (s : State) (after : State → State) : State :=
  transact (writeCommandByte ch) (hiByte v) (loByte v) s (fun t => after (recordFine ch v t))

/-- `DacOff()` (R126). -/
def dacOffFrame (s : State) : State := transact 0x4F 0x00 0x00 s id

/-- `Modulate(b)` (R103), then the tick's remaining work. `TONE` is written with the tick's other registers (R9), so
a hung frame leaves it alone (R155). -/
def modulateThen (b : Bool) (s : State) (after : State → State) : State :=
  match s.mode with
  | .fsk => dacWriteThen s.cfg.chFine (fskWord s.cfg b) (emit [.sym b] s) (fun t => after { t with tone := b })
  | .afsk => after { emit [.sym b] s with tone := b }

/-- The register writes of `RESET` (R172). -/
def resetRegisters (s : State) : State :=
  { s with
    txs := .idle, done := false, schEn := false, synEn := false, mode := .fsk, baud := .baud50
    tog := false, pos := 0, ptr := 0, mask := 0x80, rem := 0
    rbyte := 0, tone := true, phase := 0, daclast := 0 }

/-- What a reset makes of a hung transaction: the wait ends, the frame stays cut short, and the device's contents are
no longer known (R173; log 9). -/
def endStall (s : State) : State :=
  match s.stall with
  | none => s
  | some _ => { s with stall := none, dac := DacDevice.unknown s.freeCount true, freeCount := s.freeCount + 3 }

end Sys2Proof.Machine
end

