-- ==== Sys2Proof/Machine/DacWriter.lean ====
section
/-! DEFINITION. The two bus frames as operations of the DAC writer (spec/43_dac_writer.md R124, R126), which its
callers share through `dacWriteThen` and `dacOffFrame`. A frame that arrives by itself lies in no tick's step (R132), so
its caller is the host, and it has the host's gate: at any time at most one agent is a source of frames (R62, R129;
log 4). -/

namespace Sys2Proof.Machine

/-- `DACWR`: `DacWrite(ch, v)` (R124). The block emits no other channel's frame, and a device model refuses one
(R77). -/
def execDacwr (channel : ChannelId) (value : Word16) (s : State) : Result :=
  whenLive s
    (if s.cfg.channelLegal channel then
      whenBusFree (hcWord 0x06 (argDacWrite channel value)) s (.next (dacWriteThen channel value s id))
     else .refused (.foreignFrame (writeCommandByte channel ++ value)))

/-- `DACOFF`: `DacOff()` (R126). -/
def execDacoff (s : State) : Result := whenLive s (whenBusFree (hcWord 0x07 0) s (.next (dacOffFrame s)))

end Sys2Proof.Machine
end

