-- ==== Sys2Proof/Machine/HostCommands.lean ====
section
/-! DEFINITION. The eight host commands (spec/40_host_commands.md R84 to R91), each one atomic step (R83). -/

namespace Sys2Proof.Machine

/-- `SET_FSK` (R84). -/
def execSetFsk (s : State) : Result :=
  whenLive s (whenIdle (.configWhileBusy (hcWord 0x01 0)) s (.next { s with mode := .fsk }))

/-- `SET_AFSK` (R85). -/
def execSetAfsk (s : State) : Result :=
  whenLive s (whenIdle (.configWhileBusy (hcWord 0x02 0)) s (.next { s with mode := .afsk, synEn := true }))

/-- `SET_BAUD` (R86). -/
def execSetBaud (preset : BitVec 1) (s : State) : Result :=
  whenLive s (whenIdle (.configWhileBusy (hcWord 0x03 (argSetBaud preset))) s (.next { s with baud := baudOf preset }))

/-- The registers `RTTY_SEND` writes (R87). -/
def startRtty (byte : Byte) (s : State) : State :=
  { s with rbyte := byte, pos := 0, done := false, txs := .rtty, schEn := true }

/-- `RTTY_SEND` (R87). -/
def execRttySend (byte : Byte) (s : State) : Result :=
  whenLive s (whenIdle (.startWhileBusy (hcWord 0x04 (argRttySend byte))) s (.next (startRtty byte s)))

/-- The registers `BIN_SEND` writes (R88); and the window in which the host must leave the frame's bytes and the declared
buffer alone opens (R44; log 19). -/
def startBinary (base bitCount : Word16) (s : State) : State :=
  { s with
    rem := bitCount, mask := 0x80, ptr := base, done := false, txs := .binary, schEn := true, synEn := true
    bufferHeld := s.region :: frameRegion base bitCount :: s.bufferHeld }

/-- `BIN_SEND` (R88). While a transmission is active it is V2 whatever the count (R92; log 13). -/
def execBinSend (base bitCount : Word16) (s : State) : Result :=
  whenLive s (whenIdle (.startWhileBusy (hcWord 0x05 (argBinSend base bitCount))) s
    (if bitCount = 0 then .refused (.zeroBitCount (hcWord 0x05 (argBinSend base bitCount)))
     else .next (startBinary base bitCount s)))

/-- `DAC_WRITE` (R89): V8 comes before V1 (R154). -/
def execDacWrite (channel : ChannelId) (value : Word16) (s : State) : Result :=
  whenLive s
    (if s.cfg.channelLegal channel then
      whenBusFree (hcWord 0x06 (argDacWrite channel value)) s (.next (dacWriteThen channel value s id))
     else .refused (.illegalCommand (hcWord 0x06 (argDacWrite channel value))))

/-- `DAC_OFF` (R90). -/
def execDacOff (s : State) : Result :=
  whenLive s (whenBusFree (hcWord 0x07 0) s (.next (dacOffFrame s)))

/-- `RD_STATUS` (R91): the response goes out on the status port (R67) and no state of the block changes; a host that
observes `REM = 0` may write the buffer again (R44). -/
def execRdStatus (s : State) : Result :=
  whenLive s (.next { s with
    answers := s.answers ++ [statusWord s]
    bufferHeld := if statusRem (statusWord s) = 0 then [] else s.bufferHeld })

end Sys2Proof.Machine
end

