-- ==== Sys2Proof/Machine/ResetSource.lean ====
section
/-! DEFINITION. `RESET` (spec/70_reset_and_hazards.md R171 to R174). -/

namespace Sys2Proof.Machine

/-- `RESET` (R172): legal in every state, a stuck one included; nothing is emitted. The DAC device, the bus and the
payload buffer are outside the block and are not reset (R174); the host's procedure is lost with the full restart,
and the frame whose buffer it held is lost too (R160; log 19, log 20). -/
def execReset (s : State) : Result := .next { resetRegisters (endStall s) with script := [], bufferHeld := [] }

end Sys2Proof.Machine
end

