-- ==== Sys2Proof/Machine/SymbolScheduler.lean ====
section
/-! DEFINITION. `SYM_FIRE` (spec/41_symbol_scheduler.md R99 to R106): the toggle, the two framer arms, completion,
the watchdog strobe. A tick's violations are reported V4, V5, V6 (R154; log 14). -/

namespace Sys2Proof.Machine

/-- What the binary arm does after the modulator (R101): the counter, the mask, the pointer and its strobe (R106),
completion; and the toggle's write (R99). -/
def binaryAdvance (s : State) : State :=
  let t : State :=
    if s.mask = 0x01 then
      { emit [.wdtKick] s with rem := s.rem - 1, mask := 0x80, ptr := s.ptr + 1, tog := false }
    else { s with rem := s.rem - 1, mask := s.mask >>> 1, tog := false }
  if lastBit s.rem then complete t else t

/-- `BinaryArm()` (R101). -/
def binaryArm (s : State) : Result :=
  if s.region.contains s.ptr.toNat then
    match Memory.read s.mem s.ptr.toNat with
    | none => .fault (.unwrittenByte s.ptr)
    | some x =>
      if s.mask = 0x01 ∧ s.ptr = 0xFFFF then .fault (.pointerWrap s.ptr)
      else .next (modulateThen (maskedBit x s.mask) s binaryAdvance)
  else .fault (.bufferOverrun s.ptr)

/-- What the RTTY arm does after the modulator (R102), and the toggle's write (R99). -/
def rttyAdvance (s : State) : State :=
  if lastPosition s.cfg s.pos then complete { s with tog := false } else { s with pos := s.pos + 1, tog := false }

/-- `RttyArm()` (R102). -/
def rttyArm (s : State) : Result := .next (modulateThen (rttyBit s.cfg s.rbyte s.pos) s rttyAdvance)

/-- `ActiveTick()` (R100). -/
def activeTick (s : State) : Result :=
  match s.txs with
  | .binary => binaryArm s
  | .rtty => rttyArm s
  | .idle => .next { s with tog := false }

/-- `SYM_FIRE` (R99). A fire that comes while a transaction hangs is lost (R128, R153; log 10). -/
def execSymFire (s : State) : Result :=
  if s.stall.isSome || !s.schEn then .next s
  else if s.tog then activeTick s
  else .next { s with tog := true }

end Sys2Proof.Machine
end

