-- ==== Sys2Proof/Machine/ToneSynth.lean ====
section
/-! DEFINITION. `SMP_FIRE` (spec/42_tone_synth.md R113 to R117). There is no ramp branch (R122). -/

namespace Sys2Proof.Machine

/-- The working branch of `SMP_FIRE` (R113): advance, look up the new phase, write the Fine channel. -/
def sampleTick (s : State) : Result :=
  match magnitude s.cfg (advance s.cfg s.phase (stepOf s.cfg s.tone)) with
  | none => .fault (.romIndex (advance s.cfg s.phase (stepOf s.cfg s.tone)))
  | some mag =>
    .next (dacWriteThen s.cfg.chFine (sampleWord mag) s
      (fun t => { t with phase := advance s.cfg s.phase (stepOf s.cfg s.tone) }))

/-- `SMP_FIRE` (R113). A fire that comes while a transaction hangs is lost (R128, R153; log 10). -/
def execSmpFire (s : State) : Result :=
  if s.stall.isSome || !synthRunning s then .next s else sampleTick s

end Sys2Proof.Machine
end

