-- ==== Sys2Proof/Machine/Dispatch.lean ====
section
/-! DEFINITION. One arm per row of spec/opcode_table.json. -/

namespace Sys2Proof.Machine

def exec (i : Instr) (s : State) : Host.Outcome State Fault Refusal :=
  match i with
  | .setFsk => Sys2Proof.Machine.execSetFsk s
  | .setAfsk => Sys2Proof.Machine.execSetAfsk s
  | .setBaud preset => Sys2Proof.Machine.execSetBaud preset s
  | .rttySend byte => Sys2Proof.Machine.execRttySend byte s
  | .binSend base bitCount => Sys2Proof.Machine.execBinSend base bitCount s
  | .dacWrite channel value => Sys2Proof.Machine.execDacWrite channel value s
  | .dacOff => Sys2Proof.Machine.execDacOff s
  | .rdStatus => Sys2Proof.Machine.execRdStatus s
  | .symFire => Sys2Proof.Machine.execSymFire s
  | .smpFire => Sys2Proof.Machine.execSmpFire s
  | .reset => Sys2Proof.Machine.execReset s
  | .dacwr channel value => Sys2Proof.Machine.execDacwr channel value s
  | .dacoff => Sys2Proof.Machine.execDacoff s

end Sys2Proof.Machine
end

