-- ==== Sys2Proof/Machine/HostProcedures.lean ====
section
/-! DEFINITION. The host agent's procedures (spec/44_host_sequences.md R134 to R142; `BOOT`,
spec/70_reset_and_hazards.md R175): the checksum and the expansions of the pseudo-operations of R81. Character codes
and the polynomial are the spec's general knowledge (K3, K4; log 18). -/

namespace Sys2Proof.Machine

/-- One of the eight shifts of `Crc16Step` (R139). -/
def crcShift (crc : Word16) : Word16 := if crc.getLsbD 15 then (crc <<< 1) ^^^ 0x1021 else crc <<< 1

/-- `n` shifts. -/
def crcShifts : Nat → Word16 → Word16
  | 0, crc => crc
  | n + 1, crc => crcShifts n (crcShift crc)

/-- `Crc16Step(crc, byte)` (R139). -/
def crc16Step (crc : Word16) (byte : Byte) : Word16 := crcShifts 8 (crc ^^^ (byte.setWidth 16 <<< 8))

/-- The characters of a null-terminated text (R136): up to but excluding the first NUL. -/
def beforeNul (text : List Byte) : List Byte := text.takeWhile (· != 0x00)

/-- The bytes `Checksum` feeds (R140): those after the first `$`, every further `$` left out; no answer for a text
with no `$` (D37). -/
def checksumBytes (text : List Byte) : Option (List Byte) :=
  match (beforeNul text).dropWhile (· != 0x24) with
  | [] => none
  | _ :: rest => some (rest.filter (· != 0x24))

/-- `Checksum(text)` (R140): from 0xFFFF, one byte at a time. -/
def checksum (text : List Byte) : Option Word16 := (checksumBytes text).map (List.foldl crc16Step 0xFFFF)

/-- `Hex(d)` (R138). -/
def hexDigit (d : BitVec 4) : Byte :=
  if d.toNat < 10 then 0x30 + d.setWidth 8 else 0x41 + d.setWidth 8 - 10

/-- `Suffix(c)` (R138). -/
def checksumSuffix (c : Word16) : List Byte :=
  [0x2A, hexDigit (c.extractLsb' 12 4), hexDigit (c.extractLsb' 8 4), hexDigit (c.extractLsb' 4 4),
   hexDigit (c.extractLsb' 0 4), 0x0A]

/-- The host's operations for one character (R136). -/
def sendCharacter (c : Byte) : List HostOp := [.command (.rttySend c), .waitDone, .wdtReset]

/-- `TX_STRING text` (R136). -/
def txString (text : List Byte) : List HostOp := (beforeNul text).flatMap sendCharacter

/-- `TX_SENTENCE text` (R137); no answer where `Checksum` gives none. -/
def txSentence (text : List Byte) : Option (List HostOp) :=
  (checksum text).map (fun c => txString text ++ txString (checksumSuffix c))

/-- `TX_BINARY base, n` (R141). -/
def txBinary (base bitCount : Word16) : List HostOp := [.command (.binSend base bitCount), .waitRem0]

/-- The command that selects a mode (R84, R85). -/
def modeCommand : Mode → Instr
  | .fsk => .setFsk
  | .afsk => .setAfsk

/-- `BOOT` (R175): the base carrier to the Coarse channel first; steps 2 and 3 may be omitted. -/
def bootScript (c : Config) (preset : Option (BitVec 1)) (mode : Option Mode) : List HostOp :=
  .command (.dacWrite c.chCoarse c.baseFreq) ::
    ((preset.toList.map fun p => .command (.setBaud p)) ++ (mode.toList.map fun m => .command (modeCommand m)))

/-- The operations a call expands to; no answer for a sentence with no `$`. -/
def hostExpansion (c : Config) : HostCall → Option (List HostOp)
  | .txString text => some (txString text)
  | .txSentence text => txSentence text
  | .txBinary base bitCount => some (txBinary base bitCount)
  | .boot preset mode => some (bootScript c preset mode)

/-- The host calls a procedure. It is one sequential agent (R133), so the operations join the end of its script. A
sentence with no `$` is refused here, at the call, before any of its characters is sent: that it is refused is R140
(D37), the moment is the model's choice (DESIGN CHOICE, log 23). -/
def hostCall (c : HostCall) (s : State) : Result :=
  match hostExpansion s.cfg c with
  | some ops => .next { s with script := s.script ++ ops }
  | none => .refused .noDelimiter

/-- Whether the host must leave a byte alone: one of the declared buffer while a transmission is active (R56, R159), or
one of a `BIN_SEND` after which the host has not observed `REM = 0` yet (R44; log 19). -/
def hostBarred (s : State) (a : Nat) : Bool := (!isIdle s && s.region.contains a) || s.bufferHeld.any (·.contains a)

/-- The first of `count` addresses from `start` that the host must leave alone. -/
def firstBarred (s : State) (start count : Nat) : Option Nat :=
  ((List.range count).map (start + ·)).find? (hostBarred s)

/-- The host declares a buffer and fills it (R42, R43): bytes past the 2^16-byte space do not exist, and writing a byte
that the host must leave alone is V3. While a transmission is active every declaration is V3: its bytes would be those
of the buffer region, and it would move that region's bounds (R56; log 6). -/
def declareBuffer (start : Word16) (bytes : List Byte) (s : State) : Result :=
  if start.toNat + bytes.length ≤ 65536 then
    match firstBarred s start.toNat bytes.length with
    | some a => .fault (.bufferTouched (BitVec.ofNat 16 a))
    | none =>
      whenIdle (.bufferTouched start) s (.next { s with
        mem := Memory.writeBytes s.mem start.toNat bytes
        region := { start := start, length := bytes.length } })
  else .refused (.bufferOutsideSpace start bytes.length)

/-- The host writes one byte of the payload buffer space; V3 where it must leave the byte alone (R44, R56, R148). -/
def hostPoke (addr : Word16) (x : Byte) (s : State) : Result :=
  if hostBarred s addr.toNat then .fault (.bufferTouched addr)
  else .next { s with mem := Memory.write s.mem addr.toNat x }

end Sys2Proof.Machine
end

