-- ==== Sys2Proof/Machine/Agents.lean ====
section
/-! DEFINITION. What one arrival does, and one cycle of the machine: the next arrival of the inbox, if any
(spec/60_exceptions.md R154; log 1). -/

namespace Sys2Proof.Machine

/-- What the decoder's refusal of a wire means: an illegal command word is V8 (R76), a foreign frame is refused (R77),
a line without a pulse is no event (R68). -/
def rejectWire (w : Wire) (s : State) : Result :=
  match w with
  | .hc word => whenLive s (.refused (.illegalCommand word))
  | .ev _ _ => .next s
  | .df frame => whenLive s (.refused (.foreignFrame frame))

/-- An encoded operation arrives at its port. -/
def deliverWire (w : Wire) (s : State) : Result :=
  match decode w with
  | .ok i => exec i s
  | .error _ => rejectWire w s

/-- One poll of a wait (R134): `RD_STATUS`, and the wait goes on unless the response satisfies `ends`. -/
def hostPoll (ends : StWord → Bool) (rest : List HostOp) (s : State) : Result :=
  match exec .rdStatus s with
  | .next t => .next (if ends (statusWord s) then { t with script := rest } else t)
  | .fault f => .fault f
  | .refused r => .refused r

/-- A turn of the host agent: the next operation of its script (R133, R134, R136). -/
def hostTurn (s : State) : Result :=
  match s.script with
  | [] => .next s
  | .command i :: rest => exec i { s with script := rest }
  | .waitDone :: rest => hostPoll statusDone rest s
  | .waitRem0 :: rest => hostPoll (fun w => statusRem w == 0) rest s
  | .wdtReset :: rest => .next { s with script := rest, hostKicks := s.hostKicks + 1 }

/-- What one arrival does. A blocked host does nothing (R128). -/
def deliver (a : Arrival) (s : State) : Result :=
  match a with
  | .wire w => deliverWire w s
  | .busAnswer completes => .next { s with bus := completes }
  | .declareBuffer start bytes => whenLive s (declareBuffer start bytes s)
  | .poke addr x => whenLive s (hostPoke addr x s)
  | .call c => whenLive s (hostCall c s)
  | .hostTurn => whenLive s (hostTurn s)

/-- A configuration that breaks a constraint has no step (R7, R122). -/
def whenConfigOk (s : State) (r : Result) : Result :=
  match configOk s.cfg with
  | true => r
  | false => .refused (configRefusal s.cfg)

/-- One cycle: the next arrival; with nothing arrived, nothing happens (R165). -/
def cycle (s : State) : Result :=
  match s.inbox with
  | [] => whenConfigOk s (.next s)
  | a :: rest => whenConfigOk s (deliver a { s with inbox := rest })

/-- `n` consecutive symbol fires (R80, "`k * SYM_FIRE`"), stopping at a violation. -/
def symFires : Nat → State → Result
  | 0, s => .next s
  | n + 1, s =>
    match exec .symFire s with
    | .next t => symFires n t
    | .fault f => .fault f
    | .refused r => .refused r

/-- `n` consecutive turns of the host, stopping at a violation. -/
def hostTurns : Nat → State → Result
  | 0, s => .next s
  | n + 1, s =>
    match deliver .hostTurn s with
    | .next t => hostTurns n t
    | .fault f => .fault f
    | .refused r => .refused r

end Sys2Proof.Machine
end

