-- ==== Sys2Proof/Machine/Step.lean ====
section
/-! DEFINITION. The step, and where the host places a word for it. -/

namespace Sys2Proof.Machine

/-- One step of the machine: `cycle`. -/
def step (s : State) : Host.Outcome State Fault Refusal := cycle s

/-- The word of an opcode-table row as the next arrival at its port (log 1). -/
def State.withFetchWord (s : State) (nbits w : Nat) : State :=
  { s with inbox := .wire (wireOfTableWord nbits w) :: s.inbox }

end Sys2Proof.Machine
end

