-- ==== Sys2Proof/Safety.lean ====
section
/-! DEFINITION. The terms statements are written in: the invariant (spec/10_state.md R36 and the model's own data),
the registers as one value, what a step may put on the output trace (spec/43_dac_writer.md R127, R132), the wire
formats (spec/30_encoding.md R73, R74) and the legality of a command word (R76). -/

namespace Sys2Proof.Machine

/-- The invariants (a) to (g) of R36 in a legal configuration (R7), and the model's own data: canonical memory, a
declared buffer that lies in the space and has been filled (log 5, log 6), and the host kept off it during a binary
frame (R44; log 19). -/
structure State.Inv (s : State) : Prop where
  config : configOk s.cfg = true
  enabledIffActive : s.schEn = true ↔ s.txs ≠ .idle
  remPositive : s.txs = .binary → 1 ≤ s.rem.toNat
  maskOneHot : ∃ i < 8, s.mask = 1#8 <<< i
  phaseInPeriod : s.phase.toNat < s.cfg.period
  posInFrame : s.pos.toNat ≤ s.cfg.rttyBits + s.cfg.rttyStop
  afskRuns : s.mode = .afsk → s.synEn = true
  toggleRests : s.schEn = false → s.tog = false
  memoryCanonical : Memory.wf s.mem = true
  regionFits : s.region.start.toNat + s.region.length ≤ 65536
  bufferHeldInFrame : s.txs = .binary → s.region ∈ s.bufferHeld
  regionWritten : ∀ a, s.region.contains a = true → (Memory.read s.mem a).isSome = true

/-- A byte the host must leave alone: one of the declared buffer while a transmission is active (R56), or one of a
`BIN_SEND` whose window is open (R44; log 19). -/
abbrev State.Barred (s : State) (a : Nat) : Prop :=
  (s.txs ≠ .idle ∧ s.region.contains a = true) ∨ ∃ r ∈ s.bufferHeld, r.contains a = true

/-- The fifteen registers of R13 as one value. -/
structure Registers where
  rbyte : Byte
  tone : Bool
  phase : Byte
  daclast : Word16
  txs : TxState
  tog : Bool
  pos : BitVec 4
  ptr : Word16
  mask : Byte
  rem : Word16
  done : Bool
  mode : Mode
  baud : Baud
  schEn : Bool
  synEn : Bool
  deriving DecidableEq, Repr

/-- The block's whole state (R13). -/
def State.registers (s : State) : Registers where
  rbyte := s.rbyte
  tone := s.tone
  phase := s.phase
  daclast := s.daclast
  txs := s.txs
  tog := s.tog
  pos := s.pos
  ptr := s.ptr
  mask := s.mask
  rem := s.rem
  done := s.done
  mode := s.mode
  baud := s.baud
  schEn := s.schEn
  synEn := s.synEn

/-- The register values of R40. -/
def Registers.reset : Registers where
  rbyte := 0
  tone := true
  phase := 0
  daclast := 0
  txs := .idle
  tog := false
  pos := 0
  ptr := 0
  mask := 0x80
  rem := 0
  done := false
  mode := .fsk
  baud := .baud50
  schEn := false
  synEn := false

/-- No transaction hangs, and the bus completes at least the next three transfers (R125). -/
def BusReady (s : State) : Prop := s.stall = none ∧ ∀ k, s.bus = some k → 3 ≤ k

/-- The five events of `DacWrite(ch, v)` (R124). -/
def writeEvents (ch : ChannelId) (v : Word16) : List Event :=
  [.csAssert, .byte (0x30 ||| ch.setWidth 8), .byte (v.extractLsb' 8 8), .byte (v.extractLsb' 0 8), .csRelease]

/-- The five events of `DacOff()` (R126). -/
def offEvents : List Event := [.csAssert, .byte 0x4F, .byte 0x00, .byte 0x00, .csRelease]

/-- A state after a whole `DacWrite(ch, v)` (R124, R130): the trace, `DACLAST`, and outside the block the device, the
bus's answers and the free-value counter. -/
def wrote (ch : ChannelId) (v : Word16) (s : State) : State :=
  { s with
    trace := s.trace ++ writeEvents ch v
    daclast := if ch = s.cfg.chFine then v else s.daclast
    dac := s.dac.frame s.cfg s.freeCount (0x30 ||| ch.setWidth 8) (v.extractLsb' 8 8) (v.extractLsb' 0 8)
    bus := s.bus.map (· - 3)
    freeCount := s.freeCount + 3 }

/-- A state after a whole `DacOff()` (R126). -/
def poweredOff (s : State) : State :=
  { s with
    trace := s.trace ++ offEvents
    dac := s.dac.frame s.cfg s.freeCount 0x4F 0x00 0x00
    bus := s.bus.map (· - 3)
    freeCount := s.freeCount + 3 }

/-- The three bytes of `DacWrite(ch, v)` (R124). -/
def frameBytes (ch : ChannelId) (v : Word16) : List Byte :=
  [0x30 ||| ch.setWidth 8, v.extractLsb' 8 8, v.extractLsb' 0 8]

/-- A state whose bus transaction of these bytes hangs after `k` of them (R125, R128, R155; log 10): the events so far,
and no register written. -/
def hungAfter (k : Nat) (bytes : List Byte) (s : State) : State :=
  { s with
    trace := s.trace ++ .csAssert :: (bytes.take k).map .byte
    bus := some 0
    stall := some (bytes.take k) }

/-- A state after `Modulate(b)` (R103) whose frame, if any, was completed: `TONE`, `Sym(b)`, and in FSK mode the word
of `FskWord(b)` (R104) to the Fine channel. -/
def modulated (b : Bool) (s : State) : State :=
  match s.mode with
  | .fsk =>
    { wrote s.cfg.chFine (if b then s.cfg.fskShift else 0x0000) { s with trace := s.trace ++ [.sym b] } with tone := b }
  | .afsk => { s with trace := s.trace ++ [.sym b], tone := b }

/-- The tick sequence in a piece of trace (R10). -/
def symbols (events : List Event) : List Bool :=
  events.filterMap (fun e => match e with | .sym b => some b | _ => none)

/-- The bus trace in a piece of trace (R10). -/
def busEvents (events : List Event) : List Event :=
  events.filter (fun e => match e with | .sym _ => false | .wdtKick => false | _ => true)

/-- What one step may add to the trace when no transaction ends up hanging: nothing, a symbol, whole frames only
(R127, R132), the watchdog strobe last (R101). -/
def wholeStep : List Event → Bool
  | [] => true
  | [.sym _] => true
  | [.sym _, .wdtKick] => true
  | [.csAssert, .byte _, .byte _, .byte _, .csRelease] => true
  | [.sym _, .csAssert, .byte _, .byte _, .byte _, .csRelease] => true
  | [.sym _, .csAssert, .byte _, .byte _, .byte _, .csRelease, .wdtKick] => true
  | _ => false

/-- What a step adds whose transaction hangs after the bytes `sent` (R128, R173): no `CsRelease`. -/
def cutStep (sent : List Byte) (events : List Event) : Prop :=
  sent.length ≤ 2 ∧
    (events = .csAssert :: sent.map .byte ∨ ∃ b, events = .sym b :: .csAssert :: sent.map .byte)

/-- The RTTY character frame `RF` (R73): W + 1 + S symbols. -/
def rttyFrame (c : Config) (byte : Byte) : List Bool :=
  false :: ((List.range c.rttyBits).map (fun p => byte.getLsbD p) ++ List.replicate c.rttyStop true)

/-- Symbol `k` of a binary frame (R49, R74): bit `7 - (k mod 8)` of the byte at `base + k / 8`. -/
def binarySymbol (m : Memory) (base k : Nat) : Bool :=
  match Memory.read m (base + k / 8) with
  | some x => x.getLsbD (7 - k % 8)
  | none => false

/-- The events of one symbol (R103): in FSK mode a frame follows it. -/
def symbolEvents (c : Config) (mode : Mode) (b : Bool) : List Event :=
  match mode with
  | .fsk => .sym b :: writeEvents c.chFine (if b then c.fskShift else 0x0000)
  | .afsk => [.sym b]

/-- The events of symbol `k` of a binary frame: with the watchdog strobe after each eighth (R106). -/
def binaryEvents (c : Config) (mode : Mode) (m : Memory) (base k : Nat) : List Event :=
  symbolEvents c mode (binarySymbol m base k) ++ (if k % 8 = 7 then [.wdtKick] else [])

/-- The bits of `arg` that R66 names, by operation code. -/
def namedArgBits (op : Nat) : ArgWord :=
  if op = 3 then 0x00000001 else if op = 4 then 0x000000FF else if op = 5 then 0xFFFFFFFF
  else if op = 6 then 0x000FFFFF else 0x00000000

/-- An illegal command word (R76): its `op` is not one of 0x01 to 0x08, or a bit of `arg` not named by R66 is 1, or it
is `DAC_WRITE` with a channel that is neither of the two. -/
def illegalWord (c : Config) (w : HcWord) : Prop :=
  (w.extractLsb' 32 8).toNat < 1 ∨ 8 < (w.extractLsb' 32 8).toNat ∨
    w.extractLsb' 0 32 &&& ~~~ namedArgBits (w.extractLsb' 32 8).toNat ≠ 0 ∨
    ((w.extractLsb' 32 8).toNat = 6 ∧ w.extractLsb' 16 4 ≠ c.chCoarse ∧ w.extractLsb' 16 4 ≠ c.chFine)

/-- A bus frame the block emits (R77): a write frame of one of the two channels (R70), or the power-off frame (R71). -/
def emittedFrame (c : Config) (w : DfWord) : Prop :=
  (w.extractLsb' 20 4 = 0x3 ∧ (w.extractLsb' 16 4 = c.chCoarse ∨ w.extractLsb' 16 4 = c.chFine)) ∨ w = 0x4F0000

/-- The value of an uppercase hexadecimal digit (R75). -/
def hexValue (x : Byte) : Option Nat :=
  if 0x30 ≤ x.toNat ∧ x.toNat ≤ 0x39 then some (x.toNat - 0x30)
  else if 0x41 ≤ x.toNat ∧ x.toNat ≤ 0x46 then some (x.toNat - 0x41 + 10)
  else none

end Sys2Proof.Machine
end

