-- ==== Sys2Proof/Certificates/Slice0/Obligations.lean ====
section
/-! DEFINITION. The statements about the model, from the numbered rules of spec/. They hold for every configuration:
none rests on the reference instance (log 2), on the reset value of a field of the model's own, or on a free value. -/

open Sys2Proof Sys2Proof.Machine

/-! ### Encodings -/

/-- R64 to R72: no operand bit is lost by the encodings. -/
def Obligations.DecodeOfEncode : Prop := ∀ i : Instr, decode (encode i) = .ok i

/-- R64 to R72: each word has one meaning. -/
def Obligations.EncodeOfDecode : Prop := ∀ (w : Wire) (i : Instr), decode w = .ok i → encode i = w

/-- R65, R66, R68, R70, R71: words written out from the tables, one of each family. -/
def Obligations.TableWordsDecode : Prop :=
  decode (.hc 0x050100000C) = .ok (.binSend 0x0100 12) ∧
  decode (.hc 0x0600008000) = .ok (.dacWrite 0 0x8000) ∧
  decode (.hc 0x0300000001) = .ok (.setBaud 1) ∧
  decode (.ev .smpFire 1) = .ok .smpFire ∧
  decode (.df 0x310120) = .ok (.dacwr 1 0x0120) ∧
  decode (.df 0x4F0000) = .ok .dacoff

/-- R76: an illegal command word is refused and changes nothing, and every other word that arrives is the command the
decoder reads, run by `exec`. -/
def Obligations.IllegalWordsRefused : Prop :=
  ∀ (s : State) (w : HcWord) (rest : List Arrival), configOk s.cfg = true → s.stall = none →
    s.inbox = .wire (.hc w) :: rest →
    (illegalWord s.cfg w → step s = .refused (.illegalCommand w)) ∧
    (¬ illegalWord s.cfg w → ∃ i, decode (.hc w) = .ok i ∧ encode i = .hc w ∧ step s = exec i { s with inbox := rest })

/-- R77, R70, R71: a bus frame that the block never emits is refused, and every other frame that arrives is the
operation the decoder reads, run by `exec`. (That frames arrive through the inbox is the model's own, log 1, log 4.) -/
def Obligations.ForeignFramesRefused : Prop :=
  ∀ (s : State) (w : DfWord) (rest : List Arrival), configOk s.cfg = true → s.stall = none →
    s.inbox = .wire (.df w) :: rest →
    (¬ emittedFrame s.cfg w → step s = .refused (.foreignFrame w)) ∧
    (emittedFrame s.cfg w → ∃ i, decode (.df w) = .ok i ∧ encode i = .df w ∧ step s = exec i { s with inbox := rest })

/-! ### The step -/

/-- R57 (a), R154 (the inbox is the model's own, log 1): the step takes the next arrival and runs the operation it
encodes. -/
def Obligations.StepRunsDecoded : Prop :=
  ∀ (s : State) (w : Wire) (rest : List Arrival) (i : Instr), configOk s.cfg = true →
    s.inbox = .wire w :: rest → decode w = .ok i → step s = exec i { s with inbox := rest }

/-- R165 (the inbox is the model's own, log 1): with nothing arrived, nothing happens. -/
def Obligations.QuietMachineRests : Prop :=
  ∀ s : State, configOk s.cfg = true → s.inbox = [] → step s = .next s

/-- R6, R7, R122: what the constraints on the parameters are, and that a configuration breaking one has no step. -/
def Obligations.BrokenConfigRefused : Prop :=
  ∀ s : State,
    (configOk s.cfg = true ↔
      (s.cfg.rttyBits = 7 ∨ s.cfg.rttyBits = 8) ∧ (s.cfg.rttyStop = 1 ∨ s.cfg.rttyStop = 2) ∧
      1 ≤ s.cfg.half ∧ s.cfg.half ≤ 128 ∧ s.cfg.sineRom.length = s.cfg.half ∧
      (∀ e ∈ s.cfg.sineRom, e.toNat ≤ s.cfg.maxMag.toNat) ∧
      1 ≤ s.cfg.markStep.toNat ∧ s.cfg.markStep.toNat ≤ s.cfg.half ∧
      1 ≤ s.cfg.spaceStep.toNat ∧ s.cfg.spaceStep.toNat ≤ s.cfg.half ∧
      s.cfg.markStep ≠ s.cfg.spaceStep ∧ s.cfg.chCoarse ≠ s.cfg.chFine ∧ s.cfg.stepTableRamp = false) ∧
    (configOk s.cfg = false → step s = .refused (if s.cfg.stepTableRamp then .stepTableRamp else .illegalConfig))

/-! ### The invariant -/

/-- R36, R40: reset meets the invariant in every legal configuration. -/
def Obligations.ResetMeetsInvariant : Prop :=
  ∀ c : Config, configOk c = true → (State.resetWith c).Inv ∧ (State.resetWith c).registers = Registers.reset

/-- R36: every step keeps the invariant, from every state that meets it. -/
def Obligations.StepKeepsInvariant : Prop := ∀ s t : State, s.Inv → step s = .next t → t.Inv

/-! ### Host commands -/

/-- R84. -/
def Obligations.SetFskSelectsFsk : Prop :=
  decode (.hc 0x0100000000) = .ok .setFsk ∧
  ∀ s : State, s.stall = none →
    (s.txs = .idle →
      exec .setFsk s = .next { s with mode := .fsk } ∧
      exec .smpFire { s with mode := .fsk } = .next { s with mode := .fsk }) ∧
    (s.txs ≠ .idle → exec .setFsk s = .fault (.configWhileBusy 0x0100000000))

/-- R85. -/
def Obligations.SetAfskSelectsAfsk : Prop :=
  decode (.hc 0x0200000000) = .ok .setAfsk ∧
  ∀ s : State, s.stall = none →
    (s.txs = .idle → exec .setAfsk s = .next { s with mode := .afsk, synEn := true }) ∧
    (s.txs ≠ .idle → exec .setAfsk s = .fault (.configWhileBusy 0x0200000000))

/-- R86. -/
def Obligations.SetBaudSelectsPreset : Prop :=
  decode (.hc 0x0300000000) = .ok (.setBaud 0) ∧ decode (.hc 0x0300000001) = .ok (.setBaud 1) ∧
  ∀ s : State, s.stall = none →
    (s.txs = .idle →
      exec (.setBaud 0) s = .next { s with baud := .baud50 } ∧
      exec (.setBaud 1) s = .next { s with baud := .baud300 }) ∧
    (s.txs ≠ .idle →
      exec (.setBaud 0) s = .fault (.configWhileBusy 0x0300000000) ∧
      exec (.setBaud 1) s = .fault (.configWhileBusy 0x0300000001))

/-- R87. -/
def Obligations.RttySendStartsCharacter : Prop :=
  ∀ (s : State) (byte : Byte), s.stall = none →
    decode (.hc (hcWord 0x04 (byte.setWidth 32))) = .ok (.rttySend byte) ∧
    (s.txs = .idle →
      exec (.rttySend byte) s =
        .next { s with rbyte := byte, pos := 0, done := false, txs := .rtty, schEn := true }) ∧
    (s.txs ≠ .idle → exec (.rttySend byte) s = .fault (.startWhileBusy (hcWord 0x04 (byte.setWidth 32))))

/-- R88, and R92 for a count of 0 during a transmission (R154 would order it otherwise; log 13). `bufferHeld` is the host's
window of R44 (log 19). -/
def Obligations.BinSendStartsFrame : Prop :=
  ∀ (s : State) (base n : Word16), s.stall = none →
    decode (.hc (hcWord 0x05 (base ++ n))) = .ok (.binSend base n) ∧
    (s.txs = .idle → n ≠ 0 →
      exec (.binSend base n) s =
        .next { s with
          rem := n, mask := 0x80, ptr := base, done := false, txs := .binary, schEn := true, synEn := true
          bufferHeld := s.region :: { start := base, length := (n.toNat + 7) / 8 } :: s.bufferHeld }) ∧
    (s.txs = .idle → n = 0 → exec (.binSend base n) s = .refused (.zeroBitCount (hcWord 0x05 (base ++ n)))) ∧
    (s.txs ≠ .idle → exec (.binSend base n) s = .fault (.startWhileBusy (hcWord 0x05 (base ++ n))))

/-- R89, R92: a legal channel on a free bus is written; the bus in use is V1; another channel is V8 in every state. -/
def Obligations.DacWriteSendsWord : Prop :=
  ∀ (s : State) (ch : ChannelId) (v : Word16), s.stall = none →
    ((ch = s.cfg.chCoarse ∨ ch = s.cfg.chFine) → s.txs = .idle → ¬ (s.mode = .afsk ∧ s.synEn = true) → BusReady s →
      exec (.dacWrite ch v) s = .next (wrote ch v s)) ∧
    ((ch = s.cfg.chCoarse ∨ ch = s.cfg.chFine) → (s.txs ≠ .idle ∨ (s.mode = .afsk ∧ s.synEn = true)) →
      exec (.dacWrite ch v) s = .fault (.configWhileBusy (hcWord 0x06 (0#12 ++ ch ++ v)))) ∧
    (ch ≠ s.cfg.chCoarse → ch ≠ s.cfg.chFine →
      exec (.dacWrite ch v) s = .refused (.illegalCommand (hcWord 0x06 (0#12 ++ ch ++ v))))

/-- R90, R92. -/
def Obligations.DacOffSendsPowerOff : Prop :=
  ∀ s : State, s.stall = none →
    (s.txs = .idle → ¬ (s.mode = .afsk ∧ s.synEn = true) → BusReady s → exec .dacOff s = .next (poweredOff s)) ∧
    ((s.txs ≠ .idle ∨ (s.mode = .afsk ∧ s.synEn = true)) →
      exec .dacOff s = .fault (.configWhileBusy 0x0700000000))

/-- R35: the fields of the status word. -/
def Obligations.StatusWordLayout : Prop :=
  ∀ s : State,
    (statusWord s).extractLsb' 16 16 = s.rem ∧
    (statusWord s).extractLsb' 7 9 = 0 ∧
    ((statusWord s).getLsbD 6 = true ↔ s.baud = .baud300) ∧
    ((statusWord s).getLsbD 5 = true ↔ s.mode = .afsk) ∧
    (statusWord s).getLsbD 4 = s.synEn ∧
    (statusWord s).getLsbD 3 = s.schEn ∧
    ((statusWord s).extractLsb' 1 2 = 0 ↔ s.txs = .idle) ∧
    ((statusWord s).extractLsb' 1 2 = 1 ↔ s.txs = .rtty) ∧
    ((statusWord s).extractLsb' 1 2 = 2 ↔ s.txs = .binary) ∧
    (statusWord s).getLsbD 0 = s.done

/-- R91: legal in every state of the block, the status word is the response, and nothing else changes (`answers` is
the model's record of responses, log 11; `bufferHeld` the host's window of R44, which the response ends when it has
`REM` at 0, log 19). -/
def Obligations.StatusReadAnswers : Prop :=
  ∀ s : State, s.stall = none →
    exec .rdStatus s = .next { s with
      answers := s.answers ++ [statusWord s], bufferHeld := if s.rem = 0 then [] else s.bufferHeld }

/-! ### SYM_FIRE -/

/-- R99, R151: a masked fire is dropped; a fire with the toggle at 0 only flips it. -/
def Obligations.SymFireMaskedOrInactive : Prop :=
  ∀ s : State, s.stall = none →
    (s.schEn = false → exec .symFire s = .next s) ∧
    (s.schEn = true → s.tog = false → exec .symFire s = .next { s with tog := true })

/-- R102, R103, R105: the active tick of an RTTY character. -/
def Obligations.RttyTickSendsPosition : Prop :=
  ∀ (s : State) (b : Bool), s.stall = none → s.schEn = true → s.tog = true → s.txs = .rtty →
    (s.mode = .fsk → BusReady s) →
    (b = if s.pos = 0 then false else if s.pos.toNat ≤ s.cfg.rttyBits then s.rbyte.getLsbD (s.pos.toNat - 1) else true) →
    (s.pos.toNat = s.cfg.rttyBits + s.cfg.rttyStop →
      exec .symFire s = .next { modulated b s with tog := false, schEn := false, done := true, txs := .idle }) ∧
    (s.pos.toNat ≠ s.cfg.rttyBits + s.cfg.rttyStop →
      exec .symFire s = .next { modulated b s with tog := false, pos := s.pos + 1 })

/-- R101, R103, R105, R106: the active tick of a binary frame, with its four next rows of R28. -/
def Obligations.BinaryTickSendsMaskedBit : Prop :=
  ∀ (s : State) (x : Byte) (b : Bool), s.stall = none → s.schEn = true → s.tog = true → s.txs = .binary →
    (s.mode = .fsk → BusReady s) → s.region.contains s.ptr.toNat = true →
    Memory.read s.mem s.ptr.toNat = some x → (b = true ↔ x &&& s.mask ≠ 0) →
    (s.mask ≠ 1 → s.rem ≠ 1 →
      exec .symFire s = .next { modulated b s with tog := false, rem := s.rem - 1, mask := s.mask >>> 1 }) ∧
    (s.mask ≠ 1 → s.rem = 1 →
      exec .symFire s = .next { modulated b s with
        tog := false, rem := 0, mask := s.mask >>> 1, schEn := false, done := true, txs := .idle }) ∧
    (s.mask = 1 → s.ptr ≠ 0xFFFF → s.rem ≠ 1 →
      exec .symFire s = .next { modulated b s with
        tog := false, rem := s.rem - 1, mask := 0x80, ptr := s.ptr + 1
        trace := (modulated b s).trace ++ [.wdtKick] }) ∧
    (s.mask = 1 → s.ptr ≠ 0xFFFF → s.rem = 1 →
      exec .symFire s = .next { modulated b s with
        tog := false, rem := 0, mask := 0x80, ptr := s.ptr + 1
        trace := (modulated b s).trace ++ [.wdtKick], schEn := false, done := true, txs := .idle })

/-- R148, R154: V4 when the pointer leaves the declared buffer, before V5 when it would wrap, before V6;
otherwise the fire has a next state, which in FSK mode on a stalling bus is a hung tick (log 10). (A byte of
the buffer that was never written is the model's own stop, log 5; the invariant rules it out.) -/
def Obligations.BinaryTickViolations : Prop :=
  ∀ s : State, s.Inv → s.stall = none → s.schEn = true → s.tog = true → s.txs = .binary →
    (s.region.contains s.ptr.toNat = false → exec .symFire s = .fault (.bufferOverrun s.ptr)) ∧
    (s.region.contains s.ptr.toNat = true → s.mask = 1 → s.ptr = 0xFFFF →
      exec .symFire s = .fault (.pointerWrap s.ptr)) ∧
    (s.region.contains s.ptr.toNat = true → ¬ (s.mask = 1 ∧ s.ptr = 0xFFFF) → ∃ t, exec .symFire s = .next t)

/-! ### SMP_FIRE -/

/-- R113, R117: a working sample fire advances the phase, looks the new phase up and writes it to the Fine channel. -/
def Obligations.SampleFireWritesMagnitude : Prop :=
  ∀ s : State, configOk s.cfg = true → s.phase.toNat < s.cfg.period → s.mode = .afsk → s.synEn = true → BusReady s →
    ∃ mag, magnitude s.cfg (advance s.cfg s.phase (if s.tone then s.cfg.markStep else s.cfg.spaceStep)) = some mag ∧
      exec .smpFire s =
        .next { wrote s.cfg.chFine (mag ++ 0x00#8) s with
          phase := advance s.cfg s.phase (if s.tone then s.cfg.markStep else s.cfg.spaceStep) }

/-- R120: in FSK mode a sample fire changes nothing and emits nothing, whatever `SYN_EN` is, and `PHASE` holds its value
through every operation but a reset. -/
def Obligations.SampleFireBypassed : Prop :=
  ∀ s : State, s.mode = .fsk →
    exec .smpFire s = .next s ∧
    ∀ (i : Instr) (t : State), i ≠ .reset → exec i s = .next t → t.phase = s.phase

/-- R113, R152 (the gate on `SYN_EN` is the spec's decision D17): a masked sample fire is dropped. -/
def Obligations.SampleFireMasked : Prop := ∀ s : State, s.synEn = false → exec .smpFire s = .next s

/-- R115: the 9-bit sum with its one subtraction is addition modulo PERIOD. -/
def Obligations.AdvanceIsModularSum : Prop :=
  ∀ (c : Config) (p step : Byte), configOk c = true → p.toNat < c.period → 1 ≤ step.toNat → step.toNat ≤ c.half →
    (advance c p step).toNat = (p.toNat + step.toNat) % c.period

/-- R116: lookup by symmetry, in range and never borrowing. -/
def Obligations.MagnitudeBySymmetry : Prop :=
  ∀ (c : Config) (p : Byte), configOk c = true → p.toNat < c.period →
    (p.toNat < c.half → ∃ r, c.sineRom[p.toNat]? = some r ∧ magnitude c p = some r ∧ r.toNat ≤ c.maxMag.toNat) ∧
    (c.half ≤ p.toNat → ∃ r m, c.sineRom[p.toNat - c.half]? = some r ∧ magnitude c p = some m ∧
      r.toNat ≤ c.maxMag.toNat ∧ m.toNat = c.maxMag.toNat - r.toNat)

/-- R119 (a): the second half of the waveform is the reflection of the first. -/
def Obligations.WaveformReflects : Prop :=
  ∀ (c : Config) (p q x y : Byte), configOk c = true → p.toNat < c.half → q.toNat = p.toNat + c.half →
    magnitude c p = some x → magnitude c q = some y → y.toNat + x.toNat = c.maxMag.toNat

/-- R119 (c): with a constant step the phase returns after `PERIOD / gcd(step, PERIOD)` fires. -/
def Obligations.PhaseReturns : Prop :=
  ∀ (c : Config) (p step : Byte), configOk c = true → p.toNat < c.period → 1 ≤ step.toNat → step.toNat ≤ c.half →
    (fun q => advance c q step)^[c.period / Nat.gcd step.toNat c.period] p = p

/-! ### The DAC writer, its device, and stalls -/

/-- R124, R70, R77: `DACWR` sends its frame's three bytes in one bracket; while another agent may be a source of frames
there is none from it (R62, R129; that it is V1 is the model's choice, log 4); no other channel's frame is sent. -/
def Obligations.WriteFrameOnBus : Prop :=
  ∀ (s : State) (ch : ChannelId) (v : Word16), s.stall = none →
    encode (.dacwr ch v) = .df ((0x30 ||| ch.setWidth 8 : Byte) ++ (v.extractLsb' 8 8 : Byte) ++ (v.extractLsb' 0 8 : Byte)) ∧
    ((ch = s.cfg.chCoarse ∨ ch = s.cfg.chFine) → s.txs = .idle → ¬ (s.mode = .afsk ∧ s.synEn = true) → BusReady s →
      exec (.dacwr ch v) s = .next (wrote ch v s)) ∧
    ((ch = s.cfg.chCoarse ∨ ch = s.cfg.chFine) → (s.txs ≠ .idle ∨ (s.mode = .afsk ∧ s.synEn = true)) →
      exec (.dacwr ch v) s = .fault (.configWhileBusy (hcWord 0x06 (0#12 ++ ch ++ v)))) ∧
    (ch ≠ s.cfg.chCoarse → ch ≠ s.cfg.chFine → exec (.dacwr ch v) s = .refused (.foreignFrame (0x3#4 ++ ch ++ v)))

/-- R126, R71: `DACOFF` sends `4F 00 00` in one bracket and changes no register; while another agent may be a source of
frames there is none from it (R62, R129; that it is V1 is the model's choice, log 4). -/
def Obligations.PowerOffFrameOnBus : Prop :=
  ∀ s : State, s.stall = none →
    (s.txs = .idle → ¬ (s.mode = .afsk ∧ s.synEn = true) → BusReady s →
      exec .dacoff s = .next (poweredOff s) ∧ (poweredOff s).registers = s.registers) ∧
    ((s.txs ≠ .idle ∨ (s.mode = .afsk ∧ s.synEn = true)) →
      exec .dacoff s = .fault (.configWhileBusy 0x0700000000))

/-- R47, R48, D39: a whole write frame sets its channel of the device and nothing else, `DAC_ON` included, which a
power-off frame clears and nothing sets again (log 8). -/
def Obligations.DeviceHoldsWord : Prop :=
  ∀ (s t : State) (v : Word16), configOk s.cfg = true → BusReady s → s.dac.cutFrame = false →
    (exec (.dacwr s.cfg.chCoarse v) s = .next t → t.dac = { s.dac with coarse := some v }) ∧
    (exec (.dacwr s.cfg.chFine v) s = .next t → t.dac = { s.dac with fine := some v }) ∧
    (exec .dacoff s = .next t → t.dac = { s.dac with powered := false })

/-- R128, R155, R173 (a hang is a field of the state, the model's choice, log 10): an operation that ends with a hung
transaction has emitted `CsAssert` and at most two bytes, no `CsRelease`, and written no register. -/
def Obligations.HungTransactionWritesNoRegister : Prop :=
  ∀ (i : Instr) (s t : State) (sent : List Byte), s.stall = none → exec i s = .next t → t.stall = some sent →
    t.registers = s.registers ∧ t.dac = s.dac ∧ t.mem = s.mem ∧
    ∃ events, t.trace = s.trace ++ events ∧ cutStep sent events

/-- R101, R113, R124, R125, R126, R128: on a bus that completes `k < 3` more transfers every operation that sends a frame
hangs in it after `k` bytes, whoever its caller: no frame is skipped, a tick's symbol is emitted before it (R103), and no
register is written (R155). That a hang is a field of the state is the model's choice (log 10). -/
def Obligations.StalledBusHangsWriter : Prop :=
  ∀ (s : State) (k : Nat), s.stall = none → s.bus = some k → k < 3 →
    (∀ (ch : ChannelId) (v : Word16), (ch = s.cfg.chCoarse ∨ ch = s.cfg.chFine) → s.txs = .idle →
      ¬ (s.mode = .afsk ∧ s.synEn = true) →
      exec (.dacWrite ch v) s = .next (hungAfter k (frameBytes ch v) s) ∧
      exec (.dacwr ch v) s = .next (hungAfter k (frameBytes ch v) s)) ∧
    (s.txs = .idle → ¬ (s.mode = .afsk ∧ s.synEn = true) →
      exec .dacOff s = .next (hungAfter k [0x4F, 0x00, 0x00] s) ∧
      exec .dacoff s = .next (hungAfter k [0x4F, 0x00, 0x00] s)) ∧
    (∀ b : Bool, s.mode = .fsk → s.schEn = true → s.tog = true →
      (s.txs = .rtty →
        (b = if s.pos = 0 then false else if s.pos.toNat ≤ s.cfg.rttyBits then s.rbyte.getLsbD (s.pos.toNat - 1) else true) →
        exec .symFire s = .next (hungAfter k (frameBytes s.cfg.chFine (if b then s.cfg.fskShift else 0x0000))
          { s with trace := s.trace ++ [.sym b] })) ∧
      (∀ x, s.txs = .binary → s.region.contains s.ptr.toNat = true → Memory.read s.mem s.ptr.toNat = some x →
        ¬ (s.mask = 1 ∧ s.ptr = 0xFFFF) → (b = true ↔ x &&& s.mask ≠ 0) →
        exec .symFire s = .next (hungAfter k (frameBytes s.cfg.chFine (if b then s.cfg.fskShift else 0x0000))
          { s with trace := s.trace ++ [.sym b] }))) ∧
    (configOk s.cfg = true → s.phase.toNat < s.cfg.period → s.mode = .afsk → s.synEn = true →
      ∃ mag, magnitude s.cfg (advance s.cfg s.phase (if s.tone then s.cfg.markStep else s.cfg.spaceStep)) = some mag ∧
        exec .smpFire s = .next (hungAfter k (frameBytes s.cfg.chFine (mag ++ 0x00#8)) s))

/-- R128, R153, R160, R172, R173 (log 10, log 20): while a transaction hangs, fires are lost, the host and the writer
are stuck, and a reset alone has an effect: it ends the hang, resets the registers and leaves the trace cut short. -/
def Obligations.OnlyResetLeavesHang : Prop :=
  ∀ (s : State) (sent : List Byte), s.stall = some sent →
    exec .symFire s = .next s ∧ exec .smpFire s = .next s ∧
    (∀ i, i ≠ .symFire → i ≠ .smpFire → i ≠ .reset → exec i s = .fault (.busStall sent)) ∧
    ∃ t, exec .reset s = .next t ∧ t.stall = none ∧ t.registers = Registers.reset ∧ t.trace = s.trace ∧ t.mem = s.mem

/-- R172, R174 (the host's script is lost, the model's choice, log 20): what `RESET` leaves, from every state in which
no transaction hangs. -/
def Obligations.ResetRestoresRegisters : Prop :=
  ∀ s : State, s.stall = none →
    ∃ t, exec .reset s = .next t ∧ t.registers = Registers.reset ∧ t.stall = none ∧ t.trace = s.trace ∧ t.dac = s.dac ∧
      t.mem = s.mem ∧ t.region = s.region ∧ t.cfg = s.cfg ∧ t.bus = s.bus ∧ t.answers = s.answers ∧
      t.inbox = s.inbox ∧ t.script = [] ∧ t.hostKicks = s.hostKicks ∧ statusWord t = 0

/-! ### Rules of the whole machine -/

/-- R127, R132: every step adds whole frames to the trace, contiguous and bracketed, or leaves one cut short by a
hang. -/
def Obligations.StepsEmitWholeFrames : Prop :=
  ∀ s t : State, step s = .next t → ∃ events, t.trace = s.trace ++ events ∧
    (wholeStep events = true ∨ (s.stall = none ∧ ∃ sent, t.stall = some sent ∧ cutStep sent events))

/-- R62, R129: at any time at most one agent can put a frame on the bus; a frame that arrives by itself has the host's gate
(log 4). -/
def Obligations.OneSourceOfFrames : Prop :=
  ∀ s t : State, s.Inv → s.stall = none →
    (s.mode = .fsk → exec .smpFire s = .next t → t.trace = s.trace) ∧
    (s.mode = .afsk → exec .symFire s = .next t → busEvents t.trace = busEvents s.trace) ∧
    (s.txs = .idle → exec .symFire s = .next t → t = s) ∧
    (s.txs ≠ .idle ∨ s.mode = .afsk → ∀ ch v, exec (.dacWrite ch v) s ≠ .next t ∧ exec .dacOff s ≠ .next t ∧
      exec (.dacwr ch v) s ≠ .next t ∧ exec .dacoff s ≠ .next t)

/-- R93: once a transmission is active, only its final tick or a reset returns the block to Idle. -/
def Obligations.NothingCancelsTransmission : Prop :=
  ∀ (i : Instr) (s t : State), exec i s = .next t → s.txs ≠ .idle → t.txs = .idle →
    i = .reset ∨ (i = .symFire ∧ s.schEn = true ∧ s.tog = true ∧
      (s.txs = .rtty → s.pos.toNat = s.cfg.rttyBits + s.cfg.rttyStop) ∧ (s.txs = .binary → s.rem = 1))

/-- R29: only the scheduler raises `DONE`, on the tick that returns the block to Idle; only the start commands and a
reset clear it. -/
def Obligations.DoneRaisedOnlyByScheduler : Prop :=
  ∀ (i : Instr) (s t : State), exec i s = .next t →
    (s.done = false → t.done = true → i = .symFire ∧ s.txs ≠ .idle ∧ t.txs = .idle ∧ t.schEn = false) ∧
    (s.done = true → t.done = false → (∃ b, i = .rttySend b) ∨ (∃ a n, i = .binSend a n) ∨ i = .reset)

/-- R31, R32, R179: mode and baud do not change while a transmission is active, but for a reset. -/
def Obligations.ModeFrozenDuringTransmission : Prop :=
  ∀ (i : Instr) (s t : State), exec i s = .next t → s.txs ≠ .idle → i ≠ .reset →
    t.mode = s.mode ∧ t.baud = s.baud ∧ t.rbyte = s.rbyte

/-- R18, R28, R30: the complete list of writers of every register. -/
def Obligations.RegistersChangeOnlyByTheirWriters : Prop :=
  ∀ (i : Instr) (s t : State), exec i s = .next t → i ≠ .reset →
    (t.rbyte = s.rbyte ∨ ∃ b, i = .rttySend b) ∧
    (t.tone = s.tone ∨ i = .symFire) ∧
    (t.phase = s.phase ∨ i = .smpFire) ∧
    (t.daclast = s.daclast ∨ i = .symFire ∨ i = .smpFire ∨ (∃ v, i = .dacWrite s.cfg.chFine v) ∨
      ∃ v, i = .dacwr s.cfg.chFine v) ∧
    (t.txs = s.txs ∨ (∃ b, i = .rttySend b) ∨ (∃ a n, i = .binSend a n) ∨ i = .symFire) ∧
    (t.tog = s.tog ∨ i = .symFire) ∧
    (t.pos = s.pos ∨ (∃ b, i = .rttySend b) ∨ i = .symFire) ∧
    (t.ptr = s.ptr ∨ (∃ a n, i = .binSend a n) ∨ i = .symFire) ∧
    (t.mask = s.mask ∨ (∃ a n, i = .binSend a n) ∨ i = .symFire) ∧
    (t.rem = s.rem ∨ (∃ a n, i = .binSend a n) ∨ i = .symFire) ∧
    (t.done = s.done ∨ (∃ b, i = .rttySend b) ∨ (∃ a n, i = .binSend a n) ∨ i = .symFire) ∧
    (t.mode = s.mode ∨ i = .setFsk ∨ i = .setAfsk) ∧
    (t.baud = s.baud ∨ ∃ p, i = .setBaud p) ∧
    (t.schEn = s.schEn ∨ (∃ b, i = .rttySend b) ∨ (∃ a n, i = .binSend a n) ∨ i = .symFire) ∧
    (t.synEn = s.synEn ∨ (∃ a n, i = .binSend a n) ∨ i = .setAfsk)

/-- R42: no operation writes the payload buffer, nor the parameters; the model's own data that belongs to the other
agents (inbox, region, host agent) keeps its value too, but for the script that a reset drops (log 20). -/
def Obligations.BufferReadOnlyToBlock : Prop :=
  ∀ (i : Instr) (s t : State), exec i s = .next t →
    (∀ a, Memory.read t.mem a = Memory.read s.mem a) ∧ t.region = s.region ∧ t.cfg = s.cfg ∧ t.inbox = s.inbox ∧
    t.hostKicks = s.hostKicks ∧ (i ≠ .reset → t.script = s.script) ∧ (i ≠ .rdStatus → t.answers = s.answers)

/-- R57 (d), R154 (a): a symbol fire and a sample fire due together, in AFSK mode. Both orders are runs, the registers
end alike but for `PHASE` and `DACLAST`, and the sample uses the new or the old tone. -/
def Obligations.FiresInEitherOrder : Prop :=
  ∀ s u v : State, s.Inv → s.stall = none → s.bus = none → s.mode = .afsk →
    exec .symFire s = .next u → exec .smpFire s = .next v →
    ∃ p q, exec .smpFire u = .next p ∧ exec .symFire v = .next q ∧
      p.phase = advance s.cfg s.phase (if u.tone then s.cfg.markStep else s.cfg.spaceStep) ∧
      q.phase = advance s.cfg s.phase (if s.tone then s.cfg.markStep else s.cfg.spaceStep) ∧
      { p.registers with phase := 0, daclast := 0 } = { q.registers with phase := 0, daclast := 0 }

/-- R43, R44 (that the windows are a field of the state is the model's choice, log 19): `BIN_SEND` bars the host from the
bytes the frame will read, and from the declared buffer; a region stays barred until a status read answers `REM = 0`, or
a reset, and nothing else bars or frees one. -/
def Obligations.BufferWindow : Prop :=
  ∀ (i : Instr) (s t : State), exec i s = .next t →
    (∀ base n, i = .binSend base n →
      s.region ∈ t.bufferHeld ∧ ∀ k < n.toNat, ∃ r ∈ t.bufferHeld, r.contains (base.toNat + k / 8) = true) ∧
    (∀ r ∈ t.bufferHeld, r ∉ s.bufferHeld →
      ∃ base n, i = .binSend base n ∧ (r = s.region ∨ r = { start := base, length := (n.toNat + 7) / 8 })) ∧
    (∀ r ∈ s.bufferHeld, r ∉ t.bufferHeld → i = .reset ∨ (i = .rdStatus ∧ s.rem = 0)) ∧
    (i = .reset ∨ (i = .rdStatus ∧ s.rem = 0) → t.bufferHeld = [])

/-! ### Whole transmissions -/

/-- R73, R109, R111: a character's symbols are its frame, one on every second fire (`2k` fires send `k` symbols, and the
next one none), `2(W + 1 + S)` fires in all, with one bus frame a symbol in FSK mode and none in AFSK mode, and no
watchdog strobe; then `DONE`, and further fires do nothing. -/
def Obligations.CharacterIsFramed : Prop :=
  ∀ (s : State) (byte : Byte), s.Inv → s.stall = none → s.bus = none → s.txs = .idle →
    ∃ u t, exec (.rttySend byte) s = .next u ∧
      (∀ k < s.cfg.rttyBits + 1 + s.cfg.rttyStop, ∃ v w, symFires (2 * k) u = .next v ∧ symFires (2 * k + 1) u = .next w ∧
        v.trace = s.trace ++ ((rttyFrame s.cfg byte).take k).flatMap (symbolEvents s.cfg s.mode) ∧ w.trace = v.trace) ∧
      symFires (2 * (s.cfg.rttyBits + 1 + s.cfg.rttyStop)) u = .next t ∧
      t.trace = s.trace ++ (rttyFrame s.cfg byte).flatMap (symbolEvents s.cfg s.mode) ∧
      t.txs = .idle ∧ t.done = true ∧ t.schEn = false ∧ t.tog = false ∧ t.tone = true ∧
      t.pos.toNat = s.cfg.rttyBits + s.cfg.rttyStop ∧ exec .symFire t = .next t

/-- R43, R74, R110, R111: a binary frame's symbols are the first `n` bits of the buffer, most significant bit first,
with a watchdog strobe after each eighth, one on every second fire, `2n` fires in all; then `REM = 0`, `DONE`, and further
fires do nothing. -/
def Obligations.BinaryFrameIsSent : Prop :=
  ∀ (s : State) (base n : Word16), s.Inv → s.stall = none → s.bus = none → s.txs = .idle → n ≠ 0 →
    (∀ k < n.toNat, s.region.contains (base.toNat + k / 8) = true) → base.toNat + n.toNat / 8 < 65536 →
    ∃ u t, exec (.binSend base n) s = .next u ∧
      (∀ k < n.toNat, ∃ v w, symFires (2 * k) u = .next v ∧ symFires (2 * k + 1) u = .next w ∧
        v.trace = s.trace ++ (List.range k).flatMap (binaryEvents s.cfg s.mode s.mem base.toNat) ∧ w.trace = v.trace) ∧
      symFires (2 * n.toNat) u = .next t ∧
      t.trace = s.trace ++ (List.range n.toNat).flatMap (binaryEvents s.cfg s.mode s.mem base.toNat) ∧
      t.txs = .idle ∧ t.done = true ∧ t.schEn = false ∧ t.tog = false ∧ t.rem = 0 ∧
      t.ptr.toNat = base.toNat + n.toNat / 8 ∧ t.mask = 0x80#8 >>> (n.toNat % 8) ∧ exec .symFire t = .next t

/-! ### The host -/

/-- R44, R56, R148: a host write to a byte of the declared buffer while a transmission is active, or to a byte of a
`BIN_SEND` before the host has observed `REM = 0`, is V3 (the window: log 19), also after another buffer is declared; any
other writes its byte and no other. -/
def Obligations.HostWriteTouchesOneByte : Prop :=
  ∀ (s : State) (addr : Word16) (x : Byte), s.stall = none →
    (s.Barred addr.toNat → deliver (.poke addr x) s = .fault (.bufferTouched addr)) ∧
    (¬ s.Barred addr.toNat →
      ∃ m, deliver (.poke addr x) s = .next { s with mem := m } ∧ Memory.read m addr.toNat = some x ∧
        ∀ a, a ≠ addr.toNat → Memory.read m a = Memory.read s.mem a)

/-- R43, R44, R56 (that the declaration brings the bytes is the model's choice, log 6): a declared buffer holds its bytes
and no other byte changes, and R44's windows stay; it completes on an idle block while none of its bytes is barred; it
is V3 with a barred byte among its bytes, and, whatever its bytes, while a transmission is active. -/
def Obligations.DeclaredBufferHoldsBytes : Prop :=
  ∀ (s : State) (start : Word16) (bytes : List Byte), s.stall = none → start.toNat + bytes.length ≤ 65536 →
    (s.txs = .idle → (∀ k < bytes.length, ¬ s.Barred (start.toNat + k)) →
      ∃ m, deliver (.declareBuffer start bytes) s =
          .next { s with mem := m, region := { start := start, length := bytes.length } } ∧
        (∀ k, k < bytes.length → Memory.read m (start.toNat + k) = bytes[k]?) ∧
        ∀ a, (a < start.toNat ∨ start.toNat + bytes.length ≤ a) → Memory.read m a = Memory.read s.mem a) ∧
    ((∃ k < bytes.length, s.Barred (start.toNat + k)) →
      ∃ a, s.Barred a.toNat ∧ deliver (.declareBuffer start bytes) s = .fault (.bufferTouched a)) ∧
    (s.txs ≠ .idle → ∃ a, deliver (.declareBuffer start bytes) s = .fault (.bufferTouched a))

/-- R139 (derived from it; the polynomial is general knowledge, log 18): the update of a byte is a byte shift and one
entry of a table that depends on the high byte and the new byte alone, is linear, and has the polynomial as its entry
of 1. -/
def Obligations.Crc16StepByTable : Prop :=
  crc16Step 0x0000 0x01 = 0x1021 ∧
  (∀ x y : Byte, crc16Step 0x0000 (x ^^^ y) = crc16Step 0x0000 x ^^^ crc16Step 0x0000 y) ∧
  ∀ (crc : Word16) (byte : Byte), crc16Step crc byte = (crc <<< 8) ^^^ crc16Step 0x0000 (crc.extractLsb' 8 8 ^^^ byte)

/-- R140, R136: what the checksum is taken over: the bytes after the first `$` and before the first NUL, every `$` left
out, from 0xFFFF; a text with no `$` has none, and its sentence is refused (at the call: the model's choice, log 23). -/
def Obligations.ChecksumSkipsDelimiters : Prop :=
  ∀ (before text after : List Byte), (∀ x ∈ before, x ≠ 0x24 ∧ x ≠ 0x00) → (∀ x ∈ text, x ≠ 0x00) →
    checksum (before ++ 0x24 :: text ++ 0x00 :: after) =
      some ((text.filter (fun x => x ≠ 0x24)).foldl crc16Step 0xFFFF) ∧
    checksum (before ++ 0x00 :: after) = none ∧
    ∀ s : State, s.stall = none →
      deliver (.call (.txSentence (before ++ 0x00 :: after))) s = .refused .noDelimiter

/-- R75, R138: `*`, four uppercase hexadecimal digits of the checksum, most significant first, and a newline. -/
def Obligations.SuffixSpellsChecksum : Prop :=
  ∀ c : Word16, ∃ d3 d2 d1 d0 : Byte, checksumSuffix c = [0x2A, d3, d2, d1, d0, 0x0A] ∧
    ∃ n3 n2 n1 n0, hexValue d3 = some n3 ∧ hexValue d2 = some n2 ∧ hexValue d1 = some n1 ∧ hexValue d0 = some n0 ∧
      c.toNat = 4096 * n3 + 256 * n2 + 16 * n1 + n0

/-- R136, R137: the commands a string and a sentence expand to: one `RTTY_SEND` for each character before the NUL, each
followed by its wait and the host's watchdog reset; for a sentence the text as it stands and then the suffix. -/
def Obligations.SentenceSendsTextThenSuffix : Prop :=
  ∀ (s : State) (text after : List Byte), s.stall = none → (∀ x ∈ text, x ≠ 0x00) →
    deliver (.call (.txString (text ++ 0x00 :: after))) s =
      .next { s with script := s.script ++ text.flatMap (fun x => [.command (.rttySend x), .waitDone, .wdtReset]) } ∧
    ∀ c : Word16, checksum (text ++ 0x00 :: after) = some c →
      deliver (.call (.txSentence (text ++ 0x00 :: after))) s =
        .next { s with script := s.script ++
          (text ++ checksumSuffix c).flatMap (fun x => [.command (.rttySend x), .waitDone, .wdtReset]) }

/-- R134, R136, R141, R142: a turn of a waiting host is one status read, and the wait ends exactly when the response has
`DONE` set, or `REM` at 0; a turn at the host's own watchdog reset is that reset and nothing else; a turn at a command is
the command; and a binary transmission is its start command and the wait for `REM`. (The script is the model's form of
the host, log 12; `bufferHeld` is R44's window, log 19.) -/
def Obligations.HostWaitsPollStatus : Prop :=
  ∀ (s : State) (rest : List HostOp) (base n : Word16), s.stall = none →
    deliver (.call (.txBinary base n)) s =
      .next { s with script := s.script ++ [.command (.binSend base n), .waitRem0] } ∧
    (s.script = .waitDone :: rest →
      deliver .hostTurn s = .next { s with
        answers := s.answers ++ [statusWord s], bufferHeld := if s.rem = 0 then [] else s.bufferHeld
        script := if s.done then rest else s.script }) ∧
    (s.script = .waitRem0 :: rest →
      deliver .hostTurn s = .next { s with
        answers := s.answers ++ [statusWord s], bufferHeld := if s.rem = 0 then [] else s.bufferHeld
        script := if s.rem = 0 then rest else s.script }) ∧
    (s.script = .wdtReset :: rest →
      deliver .hostTurn s = .next { s with script := rest, hostKicks := s.hostKicks + 1 }) ∧
    (∀ i, s.script = .command i :: rest → deliver .hostTurn s = exec i { s with script := rest })

/-- R175, with steps 2 and 3 each present or omitted: after `BOOT` of an idle block whose synthesizer is not running, the
Coarse channel holds the base carrier and the chosen preset and mode are set. That Coarse takes the carrier is the spec's
own reading (D16); the call, one turn of the host a command and the empty script are the model's form of the host
(log 12). -/
def Obligations.BootWritesBaseCarrier : Prop :=
  ∀ (s : State) (preset : Option (BitVec 1)) (mode : Option Mode), configOk s.cfg = true → BusReady s → s.txs = .idle →
    ¬ (s.mode = .afsk ∧ s.synEn = true) → s.dac.cutFrame = false → s.script = [] →
    ∃ u t, deliver (.call (.boot preset mode)) s = .next u ∧
      hostTurns (1 + preset.toList.length + mode.toList.length) u = .next t ∧
      t.dac = { s.dac with coarse := some s.cfg.baseFreq } ∧ t.mode = mode.getD s.mode ∧
      t.baud = (match preset with | none => s.baud | some p => if p = 1 then .baud300 else .baud50) ∧ t.script = [] ∧
      t.trace = s.trace ++ writeEvents s.cfg.chCoarse s.cfg.baseFreq
end

