-- ==== Sys2Proof/Laws/Encoding.lean ====
section
/-! SUPPORT. The fields of encoded words (spec/30_encoding.md R64 to R72): what each field of a built word is. -/

namespace Sys2Proof

theorem getLsbD_hcWord (op : Byte) (arg : ArgWord) (i : Nat) :
    (hcWord op arg).getLsbD i = if i < 32 then arg.getLsbD i else op.getLsbD (i - 32) := BitVec.getLsbD_append

@[simp] theorem hcOp_hcWord (op : Byte) (arg : ArgWord) : hcOp (hcWord op arg) = op := by
  apply BitVec.eq_of_getLsbD_eq
  intro i hi
  simp [hcOp, getLsbD_hcWord, hi]

@[simp] theorem hcArg_hcWord (op : Byte) (arg : ArgWord) : hcArg (hcWord op arg) = arg := by
  apply BitVec.eq_of_getLsbD_eq
  intro i hi
  simp [hcArg, getLsbD_hcWord, hi]

theorem hcWord_of_fields (w : HcWord) : hcWord (hcOp w) (hcArg w) = w := by
  apply BitVec.eq_of_getLsbD_eq
  intro i hi
  rw [getLsbD_hcWord]
  split
  · simp [hcArg, *]
  · simp only [hcOp, BitVec.getLsbD_extractLsb']
    rw [show 32 + (i - 32) = i by omega, decide_eq_true (show i - 32 < 8 by omega), Bool.true_and]

theorem getLsbD_argRttySend (byte : Byte) (i : Nat) : (argRttySend byte).getLsbD i = byte.getLsbD i := by
  simp only [argRttySend, BitVec.getLsbD_setWidth]
  by_cases h : i < 8
  · simp [show i < 32 by omega]
  · simp [BitVec.getLsbD_of_ge, Nat.le_of_not_lt h]

theorem getLsbD_argBinSend (base n : Word16) (i : Nat) :
    (argBinSend base n).getLsbD i = if i < 16 then n.getLsbD i else base.getLsbD (i - 16) := BitVec.getLsbD_append

theorem getLsbD_argDacWrite (ch : ChannelId) (v : Word16) (i : Nat) :
    (argDacWrite ch v).getLsbD i = if i < 16 then v.getLsbD i else ch.getLsbD (i - 16) := by
  have split16 : (argDacWrite ch v).getLsbD i = if i < 16 then v.getLsbD i else (0#12 ++ ch).getLsbD (i - 16) :=
    BitVec.getLsbD_append
  rw [split16]
  simp only [BitVec.getLsbD_append, BitVec.getLsbD_zero]
  by_cases h : i - 16 < 4
  · simp [h]
  · simp [h, BitVec.getLsbD_of_ge, Nat.le_of_not_lt h]

theorem getLsbD_dfWrite (ch : ChannelId) (v : Word16) (i : Nat) :
    (0x3#4 ++ ch ++ v : DfWord).getLsbD i =
      if i < 16 then v.getLsbD i else if i < 20 then ch.getLsbD (i - 16) else (0x3#4).getLsbD (i - 20) := by
  have split16 : (0x3#4 ++ ch ++ v : DfWord).getLsbD i =
      if i < 16 then v.getLsbD i else (0x3#4 ++ ch).getLsbD (i - 16) := BitVec.getLsbD_append
  rw [split16]
  simp only [BitVec.getLsbD_append]
  by_cases h : i < 16
  · simp [h]
  · by_cases h' : i < 20
    · simp [h, h', show i - 16 < 4 by omega]
    · simp [h, h', show ¬ i - 16 < 4 by omega, show i - 16 - 4 = i - 20 by omega]

@[simp] theorem argSetBaud_preset (p : BitVec 1) : (argSetBaud p).extractLsb' 0 1 = p := by revert p; decide

@[simp] theorem argSetBaud_unnamed (p : BitVec 1) : argSetBaud p &&& 0xFFFFFFFE#32 = 0#32 := by revert p; decide

@[simp] theorem argRttySend_byte (byte : Byte) : (argRttySend byte).extractLsb' 0 8 = byte := by
  apply BitVec.eq_of_getLsbD_eq
  intro i hi
  simp [getLsbD_argRttySend, hi]

@[simp] theorem argRttySend_unnamed (byte : Byte) : argRttySend byte &&& 0xFFFFFF00#32 = 0#32 := by
  apply BitVec.eq_of_getLsbD_eq
  intro i hi
  rw [BitVec.getLsbD_and, getLsbD_argRttySend]
  interval_cases i <;> simp

@[simp] theorem argBinSend_base (base n : Word16) : (argBinSend base n).extractLsb' 16 16 = base := by
  apply BitVec.eq_of_getLsbD_eq
  intro i hi
  simp [getLsbD_argBinSend, hi]

@[simp] theorem argBinSend_bitCount (base n : Word16) : (argBinSend base n).extractLsb' 0 16 = n := by
  apply BitVec.eq_of_getLsbD_eq
  intro i hi
  simp [getLsbD_argBinSend, hi]

@[simp] theorem argDacWrite_channel (ch : ChannelId) (v : Word16) : (argDacWrite ch v).extractLsb' 16 4 = ch := by
  apply BitVec.eq_of_getLsbD_eq
  intro i hi
  simp [getLsbD_argDacWrite, hi]

@[simp] theorem argDacWrite_value (ch : ChannelId) (v : Word16) : (argDacWrite ch v).extractLsb' 0 16 = v := by
  apply BitVec.eq_of_getLsbD_eq
  intro i hi
  simp [getLsbD_argDacWrite, hi]

@[simp] theorem argDacWrite_unnamed (ch : ChannelId) (v : Word16) : argDacWrite ch v &&& 0xFFF00000#32 = 0#32 := by
  apply BitVec.eq_of_getLsbD_eq
  intro i hi
  rw [BitVec.getLsbD_and, getLsbD_argDacWrite]
  interval_cases i <;> simp

@[simp] theorem Machine.holdsEntries_iff (l : List Byte) (n : Nat) : Machine.holdsEntries l n = true ↔ l.length = n := by
  induction l generalizing n with
  | nil => simp only [Machine.holdsEntries, beq_iff_eq, List.length_nil]; exact eq_comm
  | cons x rest ih =>
    cases n with
    | zero => simp [Machine.holdsEntries]
    | succ n => simp [Machine.holdsEntries, ih]

/-- The command byte by nibbles: `cmd[7:4]` is 3, `cmd[3:0]` the channel (R72). -/
theorem Machine.writeCommandByte_nibbles (ch : ChannelId) : Machine.writeCommandByte ch = 0x3#4 ++ ch := by
  revert ch; decide

theorem Machine.writeCommandByte_injective {a b : ChannelId} (h : Machine.writeCommandByte a = Machine.writeCommandByte b) :
    a = b := by
  revert a b; decide

/-- A word is its two bytes, high byte first (R48). -/
theorem Machine.hiByte_append_loByte (v : Word16) : Machine.hiByte v ++ Machine.loByte v = v := by
  apply BitVec.eq_of_getLsbD_eq
  intro i hi
  have bytes : (Machine.hiByte v ++ Machine.loByte v).getLsbD i =
      if i < 8 then (Machine.loByte v).getLsbD i else (Machine.hiByte v).getLsbD (i - 8) := BitVec.getLsbD_append
  rw [bytes]
  split
  · simp [Machine.loByte, *]
  · simp only [Machine.hiByte, BitVec.getLsbD_extractLsb']
    rw [show 8 + (i - 8) = i by omega, decide_eq_true (show i - 8 < 8 by omega), Bool.true_and]

end Sys2Proof
end

