-- ==== Sys2Proof/Laws/State.lean ====
section
/-! SUPPORT. One lemma for each field of each named update of the state, so that no proof unfolds a record update. -/

namespace Sys2Proof.Machine

variable (s : State)

@[simp] theorem emit_rbyte (events : List Event) : (emit events s).rbyte = s.rbyte := rfl
@[simp] theorem emit_tone (events : List Event) : (emit events s).tone = s.tone := rfl
@[simp] theorem emit_phase (events : List Event) : (emit events s).phase = s.phase := rfl
@[simp] theorem emit_daclast (events : List Event) : (emit events s).daclast = s.daclast := rfl
@[simp] theorem emit_txs (events : List Event) : (emit events s).txs = s.txs := rfl
@[simp] theorem emit_tog (events : List Event) : (emit events s).tog = s.tog := rfl
@[simp] theorem emit_pos (events : List Event) : (emit events s).pos = s.pos := rfl
@[simp] theorem emit_ptr (events : List Event) : (emit events s).ptr = s.ptr := rfl
@[simp] theorem emit_mask (events : List Event) : (emit events s).mask = s.mask := rfl
@[simp] theorem emit_rem (events : List Event) : (emit events s).rem = s.rem := rfl
@[simp] theorem emit_done (events : List Event) : (emit events s).done = s.done := rfl
@[simp] theorem emit_mode (events : List Event) : (emit events s).mode = s.mode := rfl
@[simp] theorem emit_baud (events : List Event) : (emit events s).baud = s.baud := rfl
@[simp] theorem emit_schEn (events : List Event) : (emit events s).schEn = s.schEn := rfl
@[simp] theorem emit_synEn (events : List Event) : (emit events s).synEn = s.synEn := rfl
@[simp] theorem emit_cfg (events : List Event) : (emit events s).cfg = s.cfg := rfl
@[simp] theorem emit_mem (events : List Event) : (emit events s).mem = s.mem := rfl
@[simp] theorem emit_region (events : List Event) : (emit events s).region = s.region := rfl
@[simp] theorem emit_bufferHeld (events : List Event) : (emit events s).bufferHeld = s.bufferHeld := rfl
@[simp] theorem emit_dac (events : List Event) : (emit events s).dac = s.dac := rfl
@[simp] theorem emit_bus (events : List Event) : (emit events s).bus = s.bus := rfl
@[simp] theorem emit_stall (events : List Event) : (emit events s).stall = s.stall := rfl
@[simp] theorem emit_trace (events : List Event) : (emit events s).trace = s.trace ++ events := rfl
@[simp] theorem emit_answers (events : List Event) : (emit events s).answers = s.answers := rfl
@[simp] theorem emit_script (events : List Event) : (emit events s).script = s.script := rfl
@[simp] theorem emit_hostKicks (events : List Event) : (emit events s).hostKicks = s.hostKicks := rfl
@[simp] theorem emit_inbox (events : List Event) : (emit events s).inbox = s.inbox := rfl
@[simp] theorem emit_freeCount (events : List Event) : (emit events s).freeCount = s.freeCount := rfl

@[simp] theorem wholeFrame_rbyte (b0 b1 b2 : Byte) : (wholeFrame b0 b1 b2 s).rbyte = s.rbyte := rfl
@[simp] theorem wholeFrame_tone (b0 b1 b2 : Byte) : (wholeFrame b0 b1 b2 s).tone = s.tone := rfl
@[simp] theorem wholeFrame_phase (b0 b1 b2 : Byte) : (wholeFrame b0 b1 b2 s).phase = s.phase := rfl
@[simp] theorem wholeFrame_daclast (b0 b1 b2 : Byte) : (wholeFrame b0 b1 b2 s).daclast = s.daclast := rfl
@[simp] theorem wholeFrame_txs (b0 b1 b2 : Byte) : (wholeFrame b0 b1 b2 s).txs = s.txs := rfl
@[simp] theorem wholeFrame_tog (b0 b1 b2 : Byte) : (wholeFrame b0 b1 b2 s).tog = s.tog := rfl
@[simp] theorem wholeFrame_pos (b0 b1 b2 : Byte) : (wholeFrame b0 b1 b2 s).pos = s.pos := rfl
@[simp] theorem wholeFrame_ptr (b0 b1 b2 : Byte) : (wholeFrame b0 b1 b2 s).ptr = s.ptr := rfl
@[simp] theorem wholeFrame_mask (b0 b1 b2 : Byte) : (wholeFrame b0 b1 b2 s).mask = s.mask := rfl
@[simp] theorem wholeFrame_rem (b0 b1 b2 : Byte) : (wholeFrame b0 b1 b2 s).rem = s.rem := rfl
@[simp] theorem wholeFrame_done (b0 b1 b2 : Byte) : (wholeFrame b0 b1 b2 s).done = s.done := rfl
@[simp] theorem wholeFrame_mode (b0 b1 b2 : Byte) : (wholeFrame b0 b1 b2 s).mode = s.mode := rfl
@[simp] theorem wholeFrame_baud (b0 b1 b2 : Byte) : (wholeFrame b0 b1 b2 s).baud = s.baud := rfl
@[simp] theorem wholeFrame_schEn (b0 b1 b2 : Byte) : (wholeFrame b0 b1 b2 s).schEn = s.schEn := rfl
@[simp] theorem wholeFrame_synEn (b0 b1 b2 : Byte) : (wholeFrame b0 b1 b2 s).synEn = s.synEn := rfl
@[simp] theorem wholeFrame_cfg (b0 b1 b2 : Byte) : (wholeFrame b0 b1 b2 s).cfg = s.cfg := rfl
@[simp] theorem wholeFrame_mem (b0 b1 b2 : Byte) : (wholeFrame b0 b1 b2 s).mem = s.mem := rfl
@[simp] theorem wholeFrame_region (b0 b1 b2 : Byte) : (wholeFrame b0 b1 b2 s).region = s.region := rfl
@[simp] theorem wholeFrame_bufferHeld (b0 b1 b2 : Byte) : (wholeFrame b0 b1 b2 s).bufferHeld = s.bufferHeld := rfl
@[simp] theorem wholeFrame_dac (b0 b1 b2 : Byte) : (wholeFrame b0 b1 b2 s).dac = s.dac.frame s.cfg s.freeCount b0 b1 b2 := rfl
@[simp] theorem wholeFrame_bus (b0 b1 b2 : Byte) : (wholeFrame b0 b1 b2 s).bus = s.bus.map (· - 3) := rfl
@[simp] theorem wholeFrame_stall (b0 b1 b2 : Byte) : (wholeFrame b0 b1 b2 s).stall = s.stall := rfl
@[simp] theorem wholeFrame_trace (b0 b1 b2 : Byte) : (wholeFrame b0 b1 b2 s).trace = s.trace ++ [.csAssert, .byte b0, .byte b1, .byte b2, .csRelease] := rfl
@[simp] theorem wholeFrame_answers (b0 b1 b2 : Byte) : (wholeFrame b0 b1 b2 s).answers = s.answers := rfl
@[simp] theorem wholeFrame_script (b0 b1 b2 : Byte) : (wholeFrame b0 b1 b2 s).script = s.script := rfl
@[simp] theorem wholeFrame_hostKicks (b0 b1 b2 : Byte) : (wholeFrame b0 b1 b2 s).hostKicks = s.hostKicks := rfl
@[simp] theorem wholeFrame_inbox (b0 b1 b2 : Byte) : (wholeFrame b0 b1 b2 s).inbox = s.inbox := rfl
@[simp] theorem wholeFrame_freeCount (b0 b1 b2 : Byte) : (wholeFrame b0 b1 b2 s).freeCount = s.freeCount + 3 := rfl

@[simp] theorem hungFrame_rbyte (k : Nat) (b0 b1 b2 : Byte) : (hungFrame k b0 b1 b2 s).rbyte = s.rbyte := rfl
@[simp] theorem hungFrame_tone (k : Nat) (b0 b1 b2 : Byte) : (hungFrame k b0 b1 b2 s).tone = s.tone := rfl
@[simp] theorem hungFrame_phase (k : Nat) (b0 b1 b2 : Byte) : (hungFrame k b0 b1 b2 s).phase = s.phase := rfl
@[simp] theorem hungFrame_daclast (k : Nat) (b0 b1 b2 : Byte) : (hungFrame k b0 b1 b2 s).daclast = s.daclast := rfl
@[simp] theorem hungFrame_txs (k : Nat) (b0 b1 b2 : Byte) : (hungFrame k b0 b1 b2 s).txs = s.txs := rfl
@[simp] theorem hungFrame_tog (k : Nat) (b0 b1 b2 : Byte) : (hungFrame k b0 b1 b2 s).tog = s.tog := rfl
@[simp] theorem hungFrame_pos (k : Nat) (b0 b1 b2 : Byte) : (hungFrame k b0 b1 b2 s).pos = s.pos := rfl
@[simp] theorem hungFrame_ptr (k : Nat) (b0 b1 b2 : Byte) : (hungFrame k b0 b1 b2 s).ptr = s.ptr := rfl
@[simp] theorem hungFrame_mask (k : Nat) (b0 b1 b2 : Byte) : (hungFrame k b0 b1 b2 s).mask = s.mask := rfl
@[simp] theorem hungFrame_rem (k : Nat) (b0 b1 b2 : Byte) : (hungFrame k b0 b1 b2 s).rem = s.rem := rfl
@[simp] theorem hungFrame_done (k : Nat) (b0 b1 b2 : Byte) : (hungFrame k b0 b1 b2 s).done = s.done := rfl
@[simp] theorem hungFrame_mode (k : Nat) (b0 b1 b2 : Byte) : (hungFrame k b0 b1 b2 s).mode = s.mode := rfl
@[simp] theorem hungFrame_baud (k : Nat) (b0 b1 b2 : Byte) : (hungFrame k b0 b1 b2 s).baud = s.baud := rfl
@[simp] theorem hungFrame_schEn (k : Nat) (b0 b1 b2 : Byte) : (hungFrame k b0 b1 b2 s).schEn = s.schEn := rfl
@[simp] theorem hungFrame_synEn (k : Nat) (b0 b1 b2 : Byte) : (hungFrame k b0 b1 b2 s).synEn = s.synEn := rfl
@[simp] theorem hungFrame_cfg (k : Nat) (b0 b1 b2 : Byte) : (hungFrame k b0 b1 b2 s).cfg = s.cfg := rfl
@[simp] theorem hungFrame_mem (k : Nat) (b0 b1 b2 : Byte) : (hungFrame k b0 b1 b2 s).mem = s.mem := rfl
@[simp] theorem hungFrame_region (k : Nat) (b0 b1 b2 : Byte) : (hungFrame k b0 b1 b2 s).region = s.region := rfl
@[simp] theorem hungFrame_bufferHeld (k : Nat) (b0 b1 b2 : Byte) : (hungFrame k b0 b1 b2 s).bufferHeld = s.bufferHeld := rfl
@[simp] theorem hungFrame_dac (k : Nat) (b0 b1 b2 : Byte) : (hungFrame k b0 b1 b2 s).dac = s.dac := rfl
@[simp] theorem hungFrame_bus (k : Nat) (b0 b1 b2 : Byte) : (hungFrame k b0 b1 b2 s).bus = some 0 := rfl
@[simp] theorem hungFrame_stall (k : Nat) (b0 b1 b2 : Byte) : (hungFrame k b0 b1 b2 s).stall = some ([b0, b1, b2].take k) := rfl
@[simp] theorem hungFrame_trace (k : Nat) (b0 b1 b2 : Byte) : (hungFrame k b0 b1 b2 s).trace = s.trace ++ .csAssert :: ([b0, b1, b2].take k).map .byte := rfl
@[simp] theorem hungFrame_answers (k : Nat) (b0 b1 b2 : Byte) : (hungFrame k b0 b1 b2 s).answers = s.answers := rfl
@[simp] theorem hungFrame_script (k : Nat) (b0 b1 b2 : Byte) : (hungFrame k b0 b1 b2 s).script = s.script := rfl
@[simp] theorem hungFrame_hostKicks (k : Nat) (b0 b1 b2 : Byte) : (hungFrame k b0 b1 b2 s).hostKicks = s.hostKicks := rfl
@[simp] theorem hungFrame_inbox (k : Nat) (b0 b1 b2 : Byte) : (hungFrame k b0 b1 b2 s).inbox = s.inbox := rfl
@[simp] theorem hungFrame_freeCount (k : Nat) (b0 b1 b2 : Byte) : (hungFrame k b0 b1 b2 s).freeCount = s.freeCount := rfl

@[simp] theorem complete_rbyte : (complete s).rbyte = s.rbyte := rfl
@[simp] theorem complete_tone : (complete s).tone = s.tone := rfl
@[simp] theorem complete_phase : (complete s).phase = s.phase := rfl
@[simp] theorem complete_daclast : (complete s).daclast = s.daclast := rfl
@[simp] theorem complete_txs : (complete s).txs = .idle := rfl
@[simp] theorem complete_tog : (complete s).tog = s.tog := rfl
@[simp] theorem complete_pos : (complete s).pos = s.pos := rfl
@[simp] theorem complete_ptr : (complete s).ptr = s.ptr := rfl
@[simp] theorem complete_mask : (complete s).mask = s.mask := rfl
@[simp] theorem complete_rem : (complete s).rem = s.rem := rfl
@[simp] theorem complete_done : (complete s).done = true := rfl
@[simp] theorem complete_mode : (complete s).mode = s.mode := rfl
@[simp] theorem complete_baud : (complete s).baud = s.baud := rfl
@[simp] theorem complete_schEn : (complete s).schEn = false := rfl
@[simp] theorem complete_synEn : (complete s).synEn = s.synEn := rfl
@[simp] theorem complete_cfg : (complete s).cfg = s.cfg := rfl
@[simp] theorem complete_mem : (complete s).mem = s.mem := rfl
@[simp] theorem complete_region : (complete s).region = s.region := rfl
@[simp] theorem complete_bufferHeld : (complete s).bufferHeld = s.bufferHeld := rfl
@[simp] theorem complete_dac : (complete s).dac = s.dac := rfl
@[simp] theorem complete_bus : (complete s).bus = s.bus := rfl
@[simp] theorem complete_stall : (complete s).stall = s.stall := rfl
@[simp] theorem complete_trace : (complete s).trace = s.trace := rfl
@[simp] theorem complete_answers : (complete s).answers = s.answers := rfl
@[simp] theorem complete_script : (complete s).script = s.script := rfl
@[simp] theorem complete_hostKicks : (complete s).hostKicks = s.hostKicks := rfl
@[simp] theorem complete_inbox : (complete s).inbox = s.inbox := rfl
@[simp] theorem complete_freeCount : (complete s).freeCount = s.freeCount := rfl

@[simp] theorem resetRegisters_rbyte : (resetRegisters s).rbyte = 0 := rfl
@[simp] theorem resetRegisters_tone : (resetRegisters s).tone = true := rfl
@[simp] theorem resetRegisters_phase : (resetRegisters s).phase = 0 := rfl
@[simp] theorem resetRegisters_daclast : (resetRegisters s).daclast = 0 := rfl
@[simp] theorem resetRegisters_txs : (resetRegisters s).txs = .idle := rfl
@[simp] theorem resetRegisters_tog : (resetRegisters s).tog = false := rfl
@[simp] theorem resetRegisters_pos : (resetRegisters s).pos = 0 := rfl
@[simp] theorem resetRegisters_ptr : (resetRegisters s).ptr = 0 := rfl
@[simp] theorem resetRegisters_mask : (resetRegisters s).mask = 0x80 := rfl
@[simp] theorem resetRegisters_rem : (resetRegisters s).rem = 0 := rfl
@[simp] theorem resetRegisters_done : (resetRegisters s).done = false := rfl
@[simp] theorem resetRegisters_mode : (resetRegisters s).mode = .fsk := rfl
@[simp] theorem resetRegisters_baud : (resetRegisters s).baud = .baud50 := rfl
@[simp] theorem resetRegisters_schEn : (resetRegisters s).schEn = false := rfl
@[simp] theorem resetRegisters_synEn : (resetRegisters s).synEn = false := rfl
@[simp] theorem resetRegisters_cfg : (resetRegisters s).cfg = s.cfg := rfl
@[simp] theorem resetRegisters_mem : (resetRegisters s).mem = s.mem := rfl
@[simp] theorem resetRegisters_region : (resetRegisters s).region = s.region := rfl
@[simp] theorem resetRegisters_bufferHeld : (resetRegisters s).bufferHeld = s.bufferHeld := rfl
@[simp] theorem resetRegisters_dac : (resetRegisters s).dac = s.dac := rfl
@[simp] theorem resetRegisters_bus : (resetRegisters s).bus = s.bus := rfl
@[simp] theorem resetRegisters_stall : (resetRegisters s).stall = s.stall := rfl
@[simp] theorem resetRegisters_trace : (resetRegisters s).trace = s.trace := rfl
@[simp] theorem resetRegisters_answers : (resetRegisters s).answers = s.answers := rfl
@[simp] theorem resetRegisters_script : (resetRegisters s).script = s.script := rfl
@[simp] theorem resetRegisters_hostKicks : (resetRegisters s).hostKicks = s.hostKicks := rfl
@[simp] theorem resetRegisters_inbox : (resetRegisters s).inbox = s.inbox := rfl
@[simp] theorem resetRegisters_freeCount : (resetRegisters s).freeCount = s.freeCount := rfl

@[simp] theorem recordFine_rbyte (ch : ChannelId) (v : Word16) : (recordFine ch v s).rbyte = s.rbyte := by unfold recordFine; split <;> rfl
@[simp] theorem recordFine_tone (ch : ChannelId) (v : Word16) : (recordFine ch v s).tone = s.tone := by unfold recordFine; split <;> rfl
@[simp] theorem recordFine_phase (ch : ChannelId) (v : Word16) : (recordFine ch v s).phase = s.phase := by unfold recordFine; split <;> rfl
@[simp] theorem recordFine_daclast (ch : ChannelId) (v : Word16) :
    (recordFine ch v s).daclast = if ch = s.cfg.chFine then v else s.daclast := by unfold recordFine; split <;> rfl
@[simp] theorem recordFine_txs (ch : ChannelId) (v : Word16) : (recordFine ch v s).txs = s.txs := by unfold recordFine; split <;> rfl
@[simp] theorem recordFine_tog (ch : ChannelId) (v : Word16) : (recordFine ch v s).tog = s.tog := by unfold recordFine; split <;> rfl
@[simp] theorem recordFine_pos (ch : ChannelId) (v : Word16) : (recordFine ch v s).pos = s.pos := by unfold recordFine; split <;> rfl
@[simp] theorem recordFine_ptr (ch : ChannelId) (v : Word16) : (recordFine ch v s).ptr = s.ptr := by unfold recordFine; split <;> rfl
@[simp] theorem recordFine_mask (ch : ChannelId) (v : Word16) : (recordFine ch v s).mask = s.mask := by unfold recordFine; split <;> rfl
@[simp] theorem recordFine_rem (ch : ChannelId) (v : Word16) : (recordFine ch v s).rem = s.rem := by unfold recordFine; split <;> rfl
@[simp] theorem recordFine_done (ch : ChannelId) (v : Word16) : (recordFine ch v s).done = s.done := by unfold recordFine; split <;> rfl
@[simp] theorem recordFine_mode (ch : ChannelId) (v : Word16) : (recordFine ch v s).mode = s.mode := by unfold recordFine; split <;> rfl
@[simp] theorem recordFine_baud (ch : ChannelId) (v : Word16) : (recordFine ch v s).baud = s.baud := by unfold recordFine; split <;> rfl
@[simp] theorem recordFine_schEn (ch : ChannelId) (v : Word16) : (recordFine ch v s).schEn = s.schEn := by unfold recordFine; split <;> rfl
@[simp] theorem recordFine_synEn (ch : ChannelId) (v : Word16) : (recordFine ch v s).synEn = s.synEn := by unfold recordFine; split <;> rfl
@[simp] theorem recordFine_cfg (ch : ChannelId) (v : Word16) : (recordFine ch v s).cfg = s.cfg := by unfold recordFine; split <;> rfl
@[simp] theorem recordFine_mem (ch : ChannelId) (v : Word16) : (recordFine ch v s).mem = s.mem := by unfold recordFine; split <;> rfl
@[simp] theorem recordFine_region (ch : ChannelId) (v : Word16) : (recordFine ch v s).region = s.region := by unfold recordFine; split <;> rfl
@[simp] theorem recordFine_bufferHeld (ch : ChannelId) (v : Word16) : (recordFine ch v s).bufferHeld = s.bufferHeld := by unfold recordFine; split <;> rfl
@[simp] theorem recordFine_dac (ch : ChannelId) (v : Word16) : (recordFine ch v s).dac = s.dac := by unfold recordFine; split <;> rfl
@[simp] theorem recordFine_bus (ch : ChannelId) (v : Word16) : (recordFine ch v s).bus = s.bus := by unfold recordFine; split <;> rfl
@[simp] theorem recordFine_stall (ch : ChannelId) (v : Word16) : (recordFine ch v s).stall = s.stall := by unfold recordFine; split <;> rfl
@[simp] theorem recordFine_trace (ch : ChannelId) (v : Word16) : (recordFine ch v s).trace = s.trace := by unfold recordFine; split <;> rfl
@[simp] theorem recordFine_answers (ch : ChannelId) (v : Word16) : (recordFine ch v s).answers = s.answers := by unfold recordFine; split <;> rfl
@[simp] theorem recordFine_script (ch : ChannelId) (v : Word16) : (recordFine ch v s).script = s.script := by unfold recordFine; split <;> rfl
@[simp] theorem recordFine_hostKicks (ch : ChannelId) (v : Word16) : (recordFine ch v s).hostKicks = s.hostKicks := by unfold recordFine; split <;> rfl
@[simp] theorem recordFine_inbox (ch : ChannelId) (v : Word16) : (recordFine ch v s).inbox = s.inbox := by unfold recordFine; split <;> rfl
@[simp] theorem recordFine_freeCount (ch : ChannelId) (v : Word16) : (recordFine ch v s).freeCount = s.freeCount := by unfold recordFine; split <;> rfl

@[simp] theorem endStall_rbyte : (endStall s).rbyte = s.rbyte := by unfold endStall; split <;> rfl
@[simp] theorem endStall_tone : (endStall s).tone = s.tone := by unfold endStall; split <;> rfl
@[simp] theorem endStall_phase : (endStall s).phase = s.phase := by unfold endStall; split <;> rfl
@[simp] theorem endStall_daclast : (endStall s).daclast = s.daclast := by unfold endStall; split <;> rfl
@[simp] theorem endStall_txs : (endStall s).txs = s.txs := by unfold endStall; split <;> rfl
@[simp] theorem endStall_tog : (endStall s).tog = s.tog := by unfold endStall; split <;> rfl
@[simp] theorem endStall_pos : (endStall s).pos = s.pos := by unfold endStall; split <;> rfl
@[simp] theorem endStall_ptr : (endStall s).ptr = s.ptr := by unfold endStall; split <;> rfl
@[simp] theorem endStall_mask : (endStall s).mask = s.mask := by unfold endStall; split <;> rfl
@[simp] theorem endStall_rem : (endStall s).rem = s.rem := by unfold endStall; split <;> rfl
@[simp] theorem endStall_done : (endStall s).done = s.done := by unfold endStall; split <;> rfl
@[simp] theorem endStall_mode : (endStall s).mode = s.mode := by unfold endStall; split <;> rfl
@[simp] theorem endStall_baud : (endStall s).baud = s.baud := by unfold endStall; split <;> rfl
@[simp] theorem endStall_schEn : (endStall s).schEn = s.schEn := by unfold endStall; split <;> rfl
@[simp] theorem endStall_synEn : (endStall s).synEn = s.synEn := by unfold endStall; split <;> rfl
@[simp] theorem endStall_cfg : (endStall s).cfg = s.cfg := by unfold endStall; split <;> rfl
@[simp] theorem endStall_mem : (endStall s).mem = s.mem := by unfold endStall; split <;> rfl
@[simp] theorem endStall_region : (endStall s).region = s.region := by unfold endStall; split <;> rfl
@[simp] theorem endStall_bufferHeld : (endStall s).bufferHeld = s.bufferHeld := by unfold endStall; split <;> rfl
@[simp] theorem endStall_bus : (endStall s).bus = s.bus := by unfold endStall; split <;> rfl
@[simp] theorem endStall_trace : (endStall s).trace = s.trace := by unfold endStall; split <;> rfl
@[simp] theorem endStall_answers : (endStall s).answers = s.answers := by unfold endStall; split <;> rfl
@[simp] theorem endStall_script : (endStall s).script = s.script := by unfold endStall; split <;> rfl
@[simp] theorem endStall_hostKicks : (endStall s).hostKicks = s.hostKicks := by unfold endStall; split <;> rfl
@[simp] theorem endStall_inbox : (endStall s).inbox = s.inbox := by unfold endStall; split <;> rfl
@[simp] theorem endStall_stall : (endStall s).stall = none := by unfold endStall; split <;> simp_all

end Sys2Proof.Machine
end

