-- ==== Sys2Proof/Laws/Ops.lean ====
section
/-! SUPPORT. Everything each shared operation can do, said once: the gates, the bus transaction and its callers, and
what a fire can lead to. -/

namespace Sys2Proof.Machine

/-! ### The gates -/

@[simp] theorem whenLive_of_live {s : State} (h : s.stall = none) (r : Result) : whenLive s r = r := by
  simp [whenLive, h]

@[simp] theorem whenLive_of_hung {s : State} {sent : List Byte} (h : s.stall = some sent) (r : Result) :
    whenLive s r = .fault (.busStall sent) := by
  simp [whenLive, h]

theorem whenLive_eq_next {s t : State} {r : Result} : whenLive s r = .next t ↔ s.stall = none ∧ r = .next t := by
  cases h : s.stall <;> simp [whenLive, h]

@[simp] theorem isIdle_iff {s : State} : isIdle s = true ↔ s.txs = .idle := by simp [isIdle]

@[simp] theorem synthRunning_iff {s : State} : synthRunning s = true ↔ s.mode = .afsk ∧ s.synEn = true := by
  simp [synthRunning]

theorem whenIdle_of_idle {s : State} (h : s.txs = .idle) (f : Fault) (r : Result) : whenIdle f s r = r := by
  simp [whenIdle, h]

theorem whenIdle_of_busy {s : State} (h : s.txs ≠ .idle) (f : Fault) (r : Result) : whenIdle f s r = .fault f := by
  simp [whenIdle, h]

theorem whenIdle_eq_next {s t : State} {f : Fault} {r : Result} :
    whenIdle f s r = .next t ↔ s.txs = .idle ∧ r = .next t := by
  by_cases h : s.txs = .idle <;> simp [whenIdle, h]

theorem whenBusFree_of_free {s : State} (h : s.txs = .idle) (h' : ¬ (s.mode = .afsk ∧ s.synEn = true)) (w : HcWord)
    (r : Result) : whenBusFree w s r = r := by
  have : synthRunning s = false := by rw [← Bool.not_eq_true, synthRunning_iff]; exact h'
  simp [whenBusFree, h, this]

theorem whenBusFree_of_busy {s : State} (h : s.txs ≠ .idle ∨ (s.mode = .afsk ∧ s.synEn = true)) (w : HcWord)
    (r : Result) : whenBusFree w s r = .fault (.configWhileBusy w) := by
  have hc : ¬ ((isIdle s && !synthRunning s) = true) := by
    simp only [Bool.and_eq_true, isIdle_iff, Bool.not_eq_true', ← Bool.not_eq_true, synthRunning_iff]
    tauto
  exact if_neg hc

theorem whenBusFree_eq_next {s t : State} {w : HcWord} {r : Result} :
    whenBusFree w s r = .next t ↔ s.txs = .idle ∧ ¬ (s.mode = .afsk ∧ s.synEn = true) ∧ r = .next t := by
  by_cases h : s.txs ≠ .idle ∨ (s.mode = .afsk ∧ s.synEn = true)
  · rw [whenBusFree_of_busy h]
    constructor
    · intro h; cases h
    · tauto
  · rw [whenBusFree_of_free (by tauto) (by tauto)]
    tauto

theorem hostBarred_iff {s : State} {a : Nat} : hostBarred s a = true ↔ s.Barred a := by
  simp [hostBarred, State.Barred, ← Bool.not_eq_true]

theorem firstBarred_eq_some {s : State} {start count a : Nat} (h : firstBarred s start count = some a) :
    s.Barred a ∧ ∃ k < count, a = start + k := by
  have hm := List.mem_of_find?_eq_some h
  simp only [List.mem_map, List.mem_range] at hm
  obtain ⟨k, hk, rfl⟩ := hm
  exact ⟨hostBarred_iff.1 (List.find?_some h), k, hk, rfl⟩

theorem firstBarred_eq_none {s : State} {start count : Nat} :
    firstBarred s start count = none ↔ ∀ k < count, ¬ s.Barred (start + k) := by
  simp [firstBarred, ← hostBarred_iff]

theorem frameRegion_contains {base n : Word16} {k : Nat} (h : k < n.toNat) :
    (frameRegion base n).contains (base.toNat + k / 8) = true := by
  simp [Region.contains, frameRegion]
  omega

theorem channelLegal_iff {c : Config} {ch : ChannelId} :
    c.channelLegal ch = true ↔ ch = c.chCoarse ∨ ch = c.chFine := by
  simp [Config.channelLegal]

/-! ### The bus transaction -/

theorem transact_ready {s : State} (h : BusReady s) (b0 b1 b2 : Byte) (after : State → State) :
    transact b0 b1 b2 s after = after (wholeFrame b0 b1 b2 s) := by
  cases hb : s.bus with
  | none => simp [transact, hb]
  | some k => simp [transact, hb, h.2 k hb]

/-- A transaction completes and its caller goes on, or hangs and its caller does not. -/
theorem transact_cases (b0 b1 b2 : Byte) (s : State) (after : State → State) :
    transact b0 b1 b2 s after = after (wholeFrame b0 b1 b2 s) ∨
      ∃ k < 3, s.bus = some k ∧ transact b0 b1 b2 s after = hungFrame k b0 b1 b2 s := by
  cases hb : s.bus with
  | none => exact .inl (by simp [transact, hb])
  | some k =>
    by_cases hk : 3 ≤ k
    · exact .inl (by simp [transact, hb, hk])
    · exact .inr ⟨k, by omega, rfl, by simp [transact, hb, hk]⟩

/-- A completed `DacWrite` leaves what R124 and R130 say. -/
theorem recordFine_wholeFrame (ch : ChannelId) (v : Word16) (s : State) :
    recordFine ch v (wholeFrame (writeCommandByte ch) (hiByte v) (loByte v) s) = wrote ch v s := by
  unfold recordFine wrote
  by_cases h : ch = s.cfg.chFine <;> simp only [wholeFrame_cfg, h, if_true, if_false] <;> rfl

theorem dacWriteThen_ready {s : State} (h : BusReady s) (ch : ChannelId) (v : Word16) (after : State → State) :
    dacWriteThen ch v s after = after (wrote ch v s) := by
  rw [dacWriteThen, transact_ready h, recordFine_wholeFrame]

theorem dacWriteThen_cases (ch : ChannelId) (v : Word16) (s : State) (after : State → State) :
    dacWriteThen ch v s after = after (wrote ch v s) ∨
      ∃ k < 3, s.bus = some k ∧
        dacWriteThen ch v s after = hungFrame k (writeCommandByte ch) (hiByte v) (loByte v) s := by
  have := transact_cases (writeCommandByte ch) (hiByte v) (loByte v) s (fun t => after (recordFine ch v t))
  rw [recordFine_wholeFrame] at this
  exact this

theorem dacOffFrame_ready {s : State} (h : BusReady s) : dacOffFrame s = poweredOff s := by
  rw [dacOffFrame, transact_ready h]; rfl

theorem dacOffFrame_cases (s : State) :
    dacOffFrame s = poweredOff s ∨ ∃ k < 3, s.bus = some k ∧ dacOffFrame s = hungFrame k 0x4F 0x00 0x00 s :=
  transact_cases 0x4F 0x00 0x00 s id

theorem modulated_fsk {s : State} (h : s.mode = .fsk) (b : Bool) :
    modulated b s = { wrote s.cfg.chFine (fskWord s.cfg b) (emit [.sym b] s) with tone := b } := by
  unfold modulated
  split
  · rfl
  · simp_all

theorem modulated_afsk {s : State} (h : s.mode = .afsk) (b : Bool) :
    modulated b s = { emit [.sym b] s with tone := b } := by
  unfold modulated
  split
  · simp_all
  · rfl

theorem modulateThen_fsk {s : State} (h : s.mode = .fsk) (b : Bool) (after : State → State) :
    modulateThen b s after =
      dacWriteThen s.cfg.chFine (fskWord s.cfg b) (emit [.sym b] s) (fun t => after { t with tone := b }) := by
  unfold modulateThen
  split
  · rfl
  · simp_all

theorem modulateThen_afsk {s : State} (h : s.mode = .afsk) (b : Bool) (after : State → State) :
    modulateThen b s after = after (modulated b s) := by
  rw [modulated_afsk h]
  unfold modulateThen
  split
  · simp_all
  · rfl

theorem modulateThen_ready {s : State} (h : s.mode = .fsk → BusReady s) (b : Bool) (after : State → State) :
    modulateThen b s after = after (modulated b s) := by
  cases hm : s.mode with
  | fsk =>
    have ready : BusReady (emit [.sym b] s) := h hm
    rw [modulateThen_fsk hm, modulated_fsk hm, dacWriteThen_ready ready]
  | afsk => exact modulateThen_afsk hm b after

/-- A modulated tick completes its frame, or hangs in it (in FSK mode only) and leaves its registers alone. -/
theorem modulateThen_cases (b : Bool) (s : State) (after : State → State) :
    modulateThen b s after = after (modulated b s) ∨
      ∃ k < 3, s.mode = .fsk ∧ s.bus = some k ∧
        modulateThen b s after =
          hungFrame k (writeCommandByte s.cfg.chFine) (hiByte (fskWord s.cfg b)) (loByte (fskWord s.cfg b))
            (emit [.sym b] s) := by
  cases hm : s.mode with
  | afsk => exact .inl (modulateThen_afsk hm b after)
  | fsk =>
    rw [modulateThen_fsk hm, modulated_fsk hm]
    rcases dacWriteThen_cases s.cfg.chFine (fskWord s.cfg b) (emit [.sym b] s) (fun t => after { t with tone := b })
      with h | ⟨k, hk, hb, h⟩
    · exact .inl h
    · exact .inr ⟨k, hk, rfl, hb, h⟩

/-! ### The fires -/

/-- Everything a symbol fire that has a next state can lead to. -/
theorem execSymFire_cases {s t : State} (h : execSymFire s = .next t) :
    (t = s ∧ (s.stall.isSome = true ∨ s.schEn = false)) ∨
    (s.stall = none ∧ s.schEn = true ∧
      ((s.tog = false ∧ t = { s with tog := true }) ∨
       (s.tog = true ∧ s.txs = .idle ∧ t = { s with tog := false }) ∨
       (s.tog = true ∧ s.txs = .rtty ∧ t = modulateThen (rttyBit s.cfg s.rbyte s.pos) s rttyAdvance) ∨
       (s.tog = true ∧ s.txs = .binary ∧ s.region.contains s.ptr.toNat = true ∧ ¬ (s.mask = 1 ∧ s.ptr = 0xFFFF) ∧
        ∃ x, Memory.read s.mem s.ptr.toNat = some x ∧ t = modulateThen (maskedBit x s.mask) s binaryAdvance))) := by
  unfold execSymFire at h
  by_cases hs : (s.stall.isSome || !s.schEn) = true
  · left
    rw [if_pos hs] at h
    cases h
    refine ⟨rfl, ?_⟩
    simpa using hs
  · right
    rw [if_neg hs] at h
    have hs' : s.stall = none ∧ s.schEn = true := by simpa using hs
    refine ⟨hs'.1, hs'.2, ?_⟩
    by_cases ht : s.tog = true
    · rw [if_pos ht] at h
      cases hx : s.txs with
      | idle => simp only [activeTick, hx] at h; cases h; exact .inr (.inl ⟨ht, rfl, rfl⟩)
      | rtty => simp only [activeTick, hx, rttyArm] at h; cases h; exact .inr (.inr (.inl ⟨ht, rfl, rfl⟩))
      | binary =>
        simp only [activeTick, hx, binaryArm] at h
        split at h
        · rename_i hr
          split at h
          · cases h
          · rename_i x hm
            split at h
            · cases h
            · rename_i hp
              cases h
              exact .inr (.inr (.inr ⟨ht, rfl, hr, hp, x, hm, rfl⟩))
        · cases h
    · rw [if_neg ht] at h
      cases h
      exact .inl ⟨by simpa using ht, rfl⟩

/-- Everything a sample fire that has a next state can lead to. -/
theorem execSmpFire_cases {s t : State} (h : execSmpFire s = .next t) :
    (t = s ∧ (s.stall.isSome = true ∨ ¬ (s.mode = .afsk ∧ s.synEn = true))) ∨
    (s.stall = none ∧ s.mode = .afsk ∧ s.synEn = true ∧
      ∃ mag, magnitude s.cfg (advance s.cfg s.phase (stepOf s.cfg s.tone)) = some mag ∧
        t = dacWriteThen s.cfg.chFine (sampleWord mag) s
          (fun t => { t with phase := advance s.cfg s.phase (stepOf s.cfg s.tone) })) := by
  unfold execSmpFire at h
  by_cases hs : (s.stall.isSome || !synthRunning s) = true
  · left
    rw [if_pos hs] at h
    cases h
    refine ⟨rfl, ?_⟩
    simp only [Bool.or_eq_true, Bool.not_eq_true', ← Bool.not_eq_true, synthRunning_iff] at hs
    exact hs
  · right
    rw [if_neg hs] at h
    simp only [Bool.or_eq_true, Bool.not_eq_true', ← Bool.not_eq_true, synthRunning_iff, not_or, not_not] at hs
    refine ⟨by simpa using hs.1, hs.2.1, hs.2.2, ?_⟩
    unfold sampleTick at h
    split at h
    · cases h
    · rename_i mag hm
      cases h
      exact ⟨mag, hm, rfl⟩

end Sys2Proof.Machine
end

