-- ==== Sys2Proof/Laws/Exec.lean ====
section
/-! SUPPORT. What a modulated state's fields are, and everything an operation that has a next state can lead to, one
case a constructor of `Instr`. -/

namespace Sys2Proof.Machine

variable (s : State)

/-! ### The fields a completed frame leaves -/

@[simp] theorem wrote_rbyte (ch : ChannelId) (v : Word16) : (wrote ch v s).rbyte = s.rbyte := rfl
@[simp] theorem poweredOff_rbyte : (poweredOff s).rbyte = s.rbyte := rfl
@[simp] theorem wrote_tone (ch : ChannelId) (v : Word16) : (wrote ch v s).tone = s.tone := rfl
@[simp] theorem poweredOff_tone : (poweredOff s).tone = s.tone := rfl
@[simp] theorem wrote_phase (ch : ChannelId) (v : Word16) : (wrote ch v s).phase = s.phase := rfl
@[simp] theorem poweredOff_phase : (poweredOff s).phase = s.phase := rfl
@[simp] theorem wrote_txs (ch : ChannelId) (v : Word16) : (wrote ch v s).txs = s.txs := rfl
@[simp] theorem poweredOff_txs : (poweredOff s).txs = s.txs := rfl
@[simp] theorem wrote_tog (ch : ChannelId) (v : Word16) : (wrote ch v s).tog = s.tog := rfl
@[simp] theorem poweredOff_tog : (poweredOff s).tog = s.tog := rfl
@[simp] theorem wrote_pos (ch : ChannelId) (v : Word16) : (wrote ch v s).pos = s.pos := rfl
@[simp] theorem poweredOff_pos : (poweredOff s).pos = s.pos := rfl
@[simp] theorem wrote_ptr (ch : ChannelId) (v : Word16) : (wrote ch v s).ptr = s.ptr := rfl
@[simp] theorem poweredOff_ptr : (poweredOff s).ptr = s.ptr := rfl
@[simp] theorem wrote_mask (ch : ChannelId) (v : Word16) : (wrote ch v s).mask = s.mask := rfl
@[simp] theorem poweredOff_mask : (poweredOff s).mask = s.mask := rfl
@[simp] theorem wrote_rem (ch : ChannelId) (v : Word16) : (wrote ch v s).rem = s.rem := rfl
@[simp] theorem poweredOff_rem : (poweredOff s).rem = s.rem := rfl
@[simp] theorem wrote_done (ch : ChannelId) (v : Word16) : (wrote ch v s).done = s.done := rfl
@[simp] theorem poweredOff_done : (poweredOff s).done = s.done := rfl
@[simp] theorem wrote_mode (ch : ChannelId) (v : Word16) : (wrote ch v s).mode = s.mode := rfl
@[simp] theorem poweredOff_mode : (poweredOff s).mode = s.mode := rfl
@[simp] theorem wrote_baud (ch : ChannelId) (v : Word16) : (wrote ch v s).baud = s.baud := rfl
@[simp] theorem poweredOff_baud : (poweredOff s).baud = s.baud := rfl
@[simp] theorem wrote_schEn (ch : ChannelId) (v : Word16) : (wrote ch v s).schEn = s.schEn := rfl
@[simp] theorem poweredOff_schEn : (poweredOff s).schEn = s.schEn := rfl
@[simp] theorem wrote_synEn (ch : ChannelId) (v : Word16) : (wrote ch v s).synEn = s.synEn := rfl
@[simp] theorem poweredOff_synEn : (poweredOff s).synEn = s.synEn := rfl
@[simp] theorem wrote_cfg (ch : ChannelId) (v : Word16) : (wrote ch v s).cfg = s.cfg := rfl
@[simp] theorem poweredOff_cfg : (poweredOff s).cfg = s.cfg := rfl
@[simp] theorem wrote_mem (ch : ChannelId) (v : Word16) : (wrote ch v s).mem = s.mem := rfl
@[simp] theorem poweredOff_mem : (poweredOff s).mem = s.mem := rfl
@[simp] theorem wrote_region (ch : ChannelId) (v : Word16) : (wrote ch v s).region = s.region := rfl
@[simp] theorem wrote_bufferHeld (ch : ChannelId) (v : Word16) : (wrote ch v s).bufferHeld = s.bufferHeld := rfl
@[simp] theorem poweredOff_region : (poweredOff s).region = s.region := rfl
@[simp] theorem poweredOff_bufferHeld : (poweredOff s).bufferHeld = s.bufferHeld := rfl
@[simp] theorem wrote_stall (ch : ChannelId) (v : Word16) : (wrote ch v s).stall = s.stall := rfl
@[simp] theorem poweredOff_stall : (poweredOff s).stall = s.stall := rfl
@[simp] theorem wrote_answers (ch : ChannelId) (v : Word16) : (wrote ch v s).answers = s.answers := rfl
@[simp] theorem poweredOff_answers : (poweredOff s).answers = s.answers := rfl
@[simp] theorem wrote_script (ch : ChannelId) (v : Word16) : (wrote ch v s).script = s.script := rfl
@[simp] theorem poweredOff_script : (poweredOff s).script = s.script := rfl
@[simp] theorem wrote_hostKicks (ch : ChannelId) (v : Word16) : (wrote ch v s).hostKicks = s.hostKicks := rfl
@[simp] theorem poweredOff_hostKicks : (poweredOff s).hostKicks = s.hostKicks := rfl
@[simp] theorem wrote_inbox (ch : ChannelId) (v : Word16) : (wrote ch v s).inbox = s.inbox := rfl
@[simp] theorem poweredOff_inbox : (poweredOff s).inbox = s.inbox := rfl

theorem modulated_field {α : Type} (get : State → α) (b : Bool) (hf : s.mode = .fsk →
    get { wrote s.cfg.chFine (fskWord s.cfg b) (emit [.sym b] s) with tone := b } = get s)
    (ha : s.mode = .afsk → get { emit [.sym b] s with tone := b } = get s) : get (modulated b s) = get s := by
  cases h : s.mode with
  | fsk => rw [modulated_fsk h]; exact hf h
  | afsk => rw [modulated_afsk h]; exact ha h

@[simp] theorem modulated_rbyte (b : Bool) : (modulated b s).rbyte = s.rbyte :=
  modulated_field s (·.rbyte) b (fun _ => rfl) (fun _ => rfl)
@[simp] theorem modulated_phase (b : Bool) : (modulated b s).phase = s.phase :=
  modulated_field s (·.phase) b (fun _ => rfl) (fun _ => rfl)
@[simp] theorem modulated_txs (b : Bool) : (modulated b s).txs = s.txs :=
  modulated_field s (·.txs) b (fun _ => rfl) (fun _ => rfl)
@[simp] theorem modulated_tog (b : Bool) : (modulated b s).tog = s.tog :=
  modulated_field s (·.tog) b (fun _ => rfl) (fun _ => rfl)
@[simp] theorem modulated_pos (b : Bool) : (modulated b s).pos = s.pos :=
  modulated_field s (·.pos) b (fun _ => rfl) (fun _ => rfl)
@[simp] theorem modulated_ptr (b : Bool) : (modulated b s).ptr = s.ptr :=
  modulated_field s (·.ptr) b (fun _ => rfl) (fun _ => rfl)
@[simp] theorem modulated_mask (b : Bool) : (modulated b s).mask = s.mask :=
  modulated_field s (·.mask) b (fun _ => rfl) (fun _ => rfl)
@[simp] theorem modulated_rem (b : Bool) : (modulated b s).rem = s.rem :=
  modulated_field s (·.rem) b (fun _ => rfl) (fun _ => rfl)
@[simp] theorem modulated_done (b : Bool) : (modulated b s).done = s.done :=
  modulated_field s (·.done) b (fun _ => rfl) (fun _ => rfl)
@[simp] theorem modulated_mode (b : Bool) : (modulated b s).mode = s.mode :=
  modulated_field s (·.mode) b (fun _ => rfl) (fun _ => rfl)
@[simp] theorem modulated_baud (b : Bool) : (modulated b s).baud = s.baud :=
  modulated_field s (·.baud) b (fun _ => rfl) (fun _ => rfl)
@[simp] theorem modulated_schEn (b : Bool) : (modulated b s).schEn = s.schEn :=
  modulated_field s (·.schEn) b (fun _ => rfl) (fun _ => rfl)
@[simp] theorem modulated_synEn (b : Bool) : (modulated b s).synEn = s.synEn :=
  modulated_field s (·.synEn) b (fun _ => rfl) (fun _ => rfl)
@[simp] theorem modulated_cfg (b : Bool) : (modulated b s).cfg = s.cfg :=
  modulated_field s (·.cfg) b (fun _ => rfl) (fun _ => rfl)
@[simp] theorem modulated_mem (b : Bool) : (modulated b s).mem = s.mem :=
  modulated_field s (·.mem) b (fun _ => rfl) (fun _ => rfl)
@[simp] theorem modulated_region (b : Bool) : (modulated b s).region = s.region :=
  modulated_field s (·.region) b (fun _ => rfl) (fun _ => rfl)
@[simp] theorem modulated_bufferHeld (b : Bool) : (modulated b s).bufferHeld = s.bufferHeld :=
  modulated_field s (·.bufferHeld) b (fun _ => rfl) (fun _ => rfl)
@[simp] theorem modulated_stall (b : Bool) : (modulated b s).stall = s.stall :=
  modulated_field s (·.stall) b (fun _ => rfl) (fun _ => rfl)
@[simp] theorem modulated_answers (b : Bool) : (modulated b s).answers = s.answers :=
  modulated_field s (·.answers) b (fun _ => rfl) (fun _ => rfl)
@[simp] theorem modulated_script (b : Bool) : (modulated b s).script = s.script :=
  modulated_field s (·.script) b (fun _ => rfl) (fun _ => rfl)
@[simp] theorem modulated_hostKicks (b : Bool) : (modulated b s).hostKicks = s.hostKicks :=
  modulated_field s (·.hostKicks) b (fun _ => rfl) (fun _ => rfl)
@[simp] theorem modulated_inbox (b : Bool) : (modulated b s).inbox = s.inbox :=
  modulated_field s (·.inbox) b (fun _ => rfl) (fun _ => rfl)
@[simp] theorem modulated_tone (b : Bool) : (modulated b s).tone = b := by
  cases h : s.mode with
  | fsk => rw [modulated_fsk h]
  | afsk => rw [modulated_afsk h]

/-- A modulated state's trace: the symbol, and in FSK mode its frame (R103). -/
theorem modulated_trace (b : Bool) : (modulated b s).trace = s.trace ++ symbolEvents s.cfg s.mode b := by
  cases h : s.mode with
  | fsk => rw [modulated_fsk h]; simp [wrote, symbolEvents, fskWord]
  | afsk => rw [modulated_afsk h]; simp [symbolEvents]

variable {s}

/-! ### Every operation -/

/-- A bus transaction of the writer from `s`: completed (`whole`), or hung after `k` bytes. -/
def SentOrHung (b0 b1 b2 : Byte) (s whole t : State) : Prop :=
  t = whole ∨ ∃ k < 3, s.bus = some k ∧ t = hungFrame k b0 b1 b2 s

/-- What an operation that has a next state leads to. -/
def NextOf (s t : State) : Instr → Prop
  | .setFsk => s.stall = none ∧ s.txs = .idle ∧ t = { s with mode := .fsk }
  | .setAfsk => s.stall = none ∧ s.txs = .idle ∧ t = { s with mode := .afsk, synEn := true }
  | .setBaud p => s.stall = none ∧ s.txs = .idle ∧ t = { s with baud := baudOf p }
  | .rttySend b => s.stall = none ∧ s.txs = .idle ∧ t = startRtty b s
  | .binSend base n => s.stall = none ∧ s.txs = .idle ∧ n ≠ 0 ∧ t = startBinary base n s
  | .dacWrite ch v =>
    s.stall = none ∧ s.txs = .idle ∧ ¬ (s.mode = .afsk ∧ s.synEn = true) ∧ (ch = s.cfg.chCoarse ∨ ch = s.cfg.chFine) ∧
      SentOrHung (writeCommandByte ch) (hiByte v) (loByte v) s (wrote ch v s) t
  | .dacOff =>
    s.stall = none ∧ s.txs = .idle ∧ ¬ (s.mode = .afsk ∧ s.synEn = true) ∧
      SentOrHung 0x4F 0x00 0x00 s (poweredOff s) t
  | .rdStatus =>
    s.stall = none ∧ t = { s with
      answers := s.answers ++ [statusWord s], bufferHeld := if statusRem (statusWord s) = 0 then [] else s.bufferHeld }
  | .symFire => execSymFire s = .next t
  | .smpFire => execSmpFire s = .next t
  | .reset => t = { resetRegisters (endStall s) with script := [], bufferHeld := [] }
  | .dacwr ch v =>
    s.stall = none ∧ s.txs = .idle ∧ ¬ (s.mode = .afsk ∧ s.synEn = true) ∧ (ch = s.cfg.chCoarse ∨ ch = s.cfg.chFine) ∧
      SentOrHung (writeCommandByte ch) (hiByte v) (loByte v) s (wrote ch v s) t
  | .dacoff =>
    s.stall = none ∧ s.txs = .idle ∧ ¬ (s.mode = .afsk ∧ s.synEn = true) ∧
      SentOrHung 0x4F 0x00 0x00 s (poweredOff s) t

theorem exec_next {i : Instr} {s t : State} (h : exec i s = .next t) : NextOf s t i := by
  cases i with
  | setFsk =>
    obtain ⟨hl, h⟩ := whenLive_eq_next.1 h
    obtain ⟨hi, h⟩ := whenIdle_eq_next.1 h
    cases h
    exact ⟨hl, hi, rfl⟩
  | setAfsk =>
    obtain ⟨hl, h⟩ := whenLive_eq_next.1 h
    obtain ⟨hi, h⟩ := whenIdle_eq_next.1 h
    cases h
    exact ⟨hl, hi, rfl⟩
  | setBaud p =>
    obtain ⟨hl, h⟩ := whenLive_eq_next.1 h
    obtain ⟨hi, h⟩ := whenIdle_eq_next.1 h
    cases h
    exact ⟨hl, hi, rfl⟩
  | rttySend b =>
    obtain ⟨hl, h⟩ := whenLive_eq_next.1 h
    obtain ⟨hi, h⟩ := whenIdle_eq_next.1 h
    cases h
    exact ⟨hl, hi, rfl⟩
  | binSend base n =>
    obtain ⟨hl, h⟩ := whenLive_eq_next.1 h
    obtain ⟨hi, h⟩ := whenIdle_eq_next.1 h
    split at h
    · cases h
    · rename_i hn
      cases h
      exact ⟨hl, hi, hn, rfl⟩
  | dacWrite ch v =>
    obtain ⟨hl, h⟩ := whenLive_eq_next.1 h
    split at h
    · rename_i hc
      obtain ⟨hi, hs, h⟩ := whenBusFree_eq_next.1 h
      cases h
      exact ⟨hl, hi, hs, channelLegal_iff.1 hc, dacWriteThen_cases ch v s id⟩
    · cases h
  | dacOff =>
    obtain ⟨hl, h⟩ := whenLive_eq_next.1 h
    obtain ⟨hi, hs, h⟩ := whenBusFree_eq_next.1 h
    cases h
    exact ⟨hl, hi, hs, dacOffFrame_cases s⟩
  | rdStatus =>
    obtain ⟨hl, h⟩ := whenLive_eq_next.1 h
    cases h
    exact ⟨hl, rfl⟩
  | symFire => exact h
  | smpFire => exact h
  | reset => cases h; rfl
  | dacwr ch v =>
    obtain ⟨hl, h⟩ := whenLive_eq_next.1 h
    split at h
    · rename_i hc
      obtain ⟨hi, hs, h⟩ := whenBusFree_eq_next.1 h
      cases h
      exact ⟨hl, hi, hs, channelLegal_iff.1 hc, dacWriteThen_cases ch v s id⟩
    · cases h
  | dacoff =>
    obtain ⟨hl, h⟩ := whenLive_eq_next.1 h
    obtain ⟨hi, hs, h⟩ := whenBusFree_eq_next.1 h
    cases h
    exact ⟨hl, hi, hs, dacOffFrame_cases s⟩

end Sys2Proof.Machine
end

