-- ==== Sys2Proof/Laws/Memory.lean ====
section
/-! SUPPORT. The payload buffer space: read after write, and every operation keeps the canonical form. -/

namespace Sys2Proof.Machine

theorem Memory.read_write_same (m : Memory) (a : Nat) (x : Byte) : Memory.read (Memory.write m a x) a = some x := by
  induction m with
  | nil => simp [Memory.write, Memory.read]
  | cons cell rest ih =>
    obtain ⟨b, y⟩ := cell
    simp only [Memory.write]
    split
    · simp [Memory.read]
    · split
      · simp [Memory.read]
      · simp [Memory.read, *]

theorem Memory.read_write_other (m : Memory) {a b : Nat} (x : Byte) (h : b ≠ a) :
    Memory.read (Memory.write m a x) b = Memory.read m b := by
  induction m with
  | nil => simp [Memory.write, Memory.read, h]
  | cons cell rest ih =>
    obtain ⟨c, y⟩ := cell
    simp only [Memory.write]
    split
    · simp [Memory.read, h]
    · split
      · rename_i heq
        subst heq
        simp [Memory.read, h]
      · simp [Memory.read, ih]

theorem Memory.read_writeBytes_below (m : Memory) (a : Nat) (bytes : List Byte) {b : Nat} (h : b < a) :
    Memory.read (Memory.writeBytes m a bytes) b = Memory.read m b := by
  induction bytes generalizing m a with
  | nil => rfl
  | cons x rest ih => rw [Memory.writeBytes, ih _ _ (by omega), Memory.read_write_other _ _ (by omega)]

theorem Memory.read_writeBytes_above (m : Memory) (a : Nat) (bytes : List Byte) {b : Nat} (h : a + bytes.length ≤ b) :
    Memory.read (Memory.writeBytes m a bytes) b = Memory.read m b := by
  induction bytes generalizing m a with
  | nil => rfl
  | cons x rest ih =>
    simp only [List.length_cons] at h
    rw [Memory.writeBytes, ih _ _ (by omega), Memory.read_write_other _ _ (by omega)]

theorem Memory.read_writeBytes_inside (m : Memory) (a : Nat) (bytes : List Byte) {k : Nat} (h : k < bytes.length) :
    Memory.read (Memory.writeBytes m a bytes) (a + k) = bytes[k]? := by
  induction bytes generalizing m a k with
  | nil => simp at h
  | cons x rest ih =>
    rw [Memory.writeBytes]
    cases k with
    | zero => rw [Memory.read_writeBytes_below _ _ _ (by omega)]; simp [Memory.read_write_same]
    | succ k =>
      have := ih (Memory.write m a x) (a + 1) (k := k) (by simpa using h)
      rw [show a + (k + 1) = a + 1 + k by omega, this]
      simp

theorem Memory.wf_cons {a : Nat} {x : Byte} {rest : Memory} :
    Memory.wf ((a, x) :: rest) = true ↔ a < 65536 ∧ (∀ cell ∈ rest, a < cell.1) ∧ Memory.wf rest = true := by
  simp [Memory.wf, and_assoc]

theorem Memory.mem_write {m : Memory} {a : Nat} {x : Byte} {cell : Host.Cell} (h : cell ∈ Memory.write m a x) :
    cell = (a, x) ∨ cell ∈ m := by
  induction m with
  | nil => simpa [Memory.write] using h
  | cons c rest ih =>
    obtain ⟨b, y⟩ := c
    simp only [Memory.write] at h
    split at h
    · simpa using h
    · split at h
      · simp only [List.mem_cons] at h ⊢; tauto
      · simp only [List.mem_cons] at h ⊢; rcases h with h | h
        · tauto
        · rcases ih h with h | h <;> tauto

theorem Memory.wf_write {m : Memory} {a : Nat} (x : Byte) (hm : Memory.wf m = true) (ha : a < 65536) :
    Memory.wf (Memory.write m a x) = true := by
  induction m with
  | nil => simp [Memory.write, Memory.wf, ha]
  | cons c rest ih =>
    obtain ⟨b, y⟩ := c
    obtain ⟨hb, hrest, hwf⟩ := Memory.wf_cons.mp hm
    simp only [Memory.write]
    split
    · rename_i hlt
      refine Memory.wf_cons.mpr ⟨ha, ?_, hm⟩
      intro cell hc
      rcases List.mem_cons.mp hc with rfl | hc
      · exact hlt
      · exact Nat.lt_trans hlt (hrest cell hc)
    · split
      · rename_i heq
        subst heq
        exact Memory.wf_cons.mpr ⟨ha, hrest, hwf⟩
      · refine Memory.wf_cons.mpr ⟨hb, ?_, ih hwf⟩
        intro cell hc
        rcases Memory.mem_write hc with rfl | hc
        · show b < a; omega
        · exact hrest cell hc

theorem Memory.wf_writeBytes {m : Memory} {a : Nat} (bytes : List Byte) (hm : Memory.wf m = true)
    (ha : a + bytes.length ≤ 65536) : Memory.wf (Memory.writeBytes m a bytes) = true := by
  induction bytes generalizing m a with
  | nil => exact hm
  | cons x rest ih =>
    simp only [List.length_cons] at ha
    exact ih (Memory.wf_write x hm (by omega)) (by omega)

end Sys2Proof.Machine
end

