-- ==== Sys2Proof/Laws/PerInstr.lean ====
section
/-! SUPPORT. One fact for every row of spec/opcode_table.json: an operation's encoding matches its row. -/

namespace Sys2Proof.Laws.TableRow

/-- The bits of a wire as one number's bits. -/
def bits : Wire → HcWord
  | .hc w => w
  | .ev _ level => level.setWidth 40
  | .df w => w.setWidth 40

/-- The `mask` of an instruction's row. -/
def mask : Instr → HcWord
  | .setFsk => 0xFFFFFFFFFF
  | .setAfsk => 0xFFFFFFFFFF
  | .setBaud _ => 0xFFFFFFFFFE
  | .rttySend _ => 0xFFFFFFFF00
  | .binSend _ _ => 0xFF00000000
  | .dacWrite _ _ => 0xFFFFF00000
  | .dacOff => 0xFFFFFFFFFF
  | .rdStatus => 0xFFFFFFFFFF
  | .symFire => 0x1
  | .smpFire => 0x1
  | .reset => 0x1
  | .dacwr _ _ => 0xF00000
  | .dacoff => 0xFFFFFF

/-- The `match` of an instruction's row. -/
def pattern : Instr → HcWord
  | .setFsk => 0x0100000000
  | .setAfsk => 0x0200000000
  | .setBaud _ => 0x0300000000
  | .rttySend _ => 0x0400000000
  | .binSend _ _ => 0x0500000000
  | .dacWrite _ _ => 0x0600000000
  | .dacOff => 0x0700000000
  | .rdStatus => 0x0800000000
  | .symFire => 0x1
  | .smpFire => 0x1
  | .reset => 0x1
  | .dacwr _ _ => 0x300000
  | .dacoff => 0x4F0000

/-- The encoding matches the row. -/
def Statement (i : Instr) : Prop := bits (encode i) &&& mask i = pattern i

theorem setFsk : Statement .setFsk := rfl
theorem setAfsk : Statement .setAfsk := rfl
theorem setBaud (preset : BitVec 1) : Statement (.setBaud preset) := by
  unfold Statement
  revert preset
  decide

theorem rttySend (byte : Byte) : Statement (.rttySend byte) := by
  apply BitVec.eq_of_getLsbD_eq
  intro i hi
  simp only [bits, encode, mask, pattern, BitVec.getLsbD_and, getLsbD_hcWord, getLsbD_argRttySend]
  interval_cases i <;> simp

theorem binSend (base bitCount : Word16) : Statement (.binSend base bitCount) := by
  apply BitVec.eq_of_getLsbD_eq
  intro i hi
  simp only [bits, encode, mask, pattern, BitVec.getLsbD_and, getLsbD_hcWord, getLsbD_argBinSend]
  interval_cases i <;> simp

theorem dacWrite (channel : ChannelId) (value : Word16) : Statement (.dacWrite channel value) := by
  apply BitVec.eq_of_getLsbD_eq
  intro i hi
  simp only [bits, encode, mask, pattern, BitVec.getLsbD_and, getLsbD_hcWord, getLsbD_argDacWrite]
  interval_cases i <;> simp

theorem dacOff : Statement .dacOff := rfl
theorem rdStatus : Statement .rdStatus := rfl
theorem symFire : Statement .symFire := rfl
theorem smpFire : Statement .smpFire := rfl
theorem reset : Statement .reset := rfl

theorem dacwr (channel : ChannelId) (value : Word16) : Statement (.dacwr channel value) := by
  apply BitVec.eq_of_getLsbD_eq
  intro i hi
  simp only [bits, encode, mask, pattern, BitVec.getLsbD_and, BitVec.getLsbD_setWidth, getLsbD_dfWrite]
  interval_cases i <;> simp

theorem dacoff : Statement .dacoff := rfl

end Sys2Proof.Laws.TableRow
end

