-- ==== Sys2Proof/Tests/Slice0.lean ====
section
/-! SUPPORT. Tests, each expected value from spec/95_test_vectors.md (vector named) or from the encoding tables, and a
witness for the hypotheses of every statement. -/

namespace Sys2Proof.Tests

open Sys2Proof.Machine

/-! ### Well-formedness: an ill-formed term for each check -/

theorem test_wellFormed_refuses_zero_count : (Instr.binSend 0x0100 0).wellFormed Config.ref = false := by decide
theorem test_wellFormed_refuses_dacWrite_channel : (Instr.dacWrite 2 0x8000).wellFormed Config.ref = false := by decide
theorem test_wellFormed_refuses_dacwr_channel : (Instr.dacwr 15 0x0120).wellFormed Config.ref = false := by decide
theorem test_wellFormed_accepts :
    (Instr.binSend 0 0xFFFF).wellFormed Config.ref = true ∧ (Instr.dacWrite 1 0).wellFormed Config.ref = true ∧
      (Instr.dacwr 0 0).wellFormed Config.ref = true := by decide

/-! ### Decoding: a word of each constructor, written out from R64 to R72 -/

/-- What the decoder reads, or nothing. -/
def read? (w : Wire) : Option Instr := (decode w).toOption

/-- T-HC1: `op` 0x01, `arg` 0. -/
theorem test_decode_setFsk : read? (.hc 0x0100000000) = some .setFsk := by decide
/-- T-HC2. -/
theorem test_decode_setAfsk : read? (.hc 0x0200000000) = some .setAfsk := by decide
/-- T-HC4: `arg[0]`. -/
theorem test_decode_setBaud : read? (.hc 0x0300000001) = some (.setBaud 1) := by decide
/-- T-HC6: `arg[7:0]`. -/
theorem test_decode_rttySend : read? (.hc 0x0400000024) = some (.rttySend 0x24) := by decide
/-- T-HC7: `arg[31:16]`, `arg[15:0]`. -/
theorem test_decode_binSend : read? (.hc 0x050100000C) = some (.binSend 0x0100 12) := by decide
/-- T-HC9: `arg[19:16]`, `arg[15:0]`. -/
theorem test_decode_dacWrite : read? (.hc 0x060001FFFF) = some (.dacWrite 1 0xFFFF) := by decide
/-- T-HC10. -/
theorem test_decode_dacOff : read? (.hc 0x0700000000) = some .dacOff := by decide
/-- T-HC11. -/
theorem test_decode_rdStatus : read? (.hc 0x0800000000) = some .rdStatus := by decide
/-- R68. -/
theorem test_decode_symFire : read? (.ev .symFire 1) = some .symFire := by decide
/-- R68. -/
theorem test_decode_smpFire : read? (.ev .smpFire 1) = some .smpFire := by decide
/-- R68. -/
theorem test_decode_reset : read? (.ev .reset 1) = some .reset := by decide
/-- T-DA2: bytes 31 01 20. -/
theorem test_decode_dacwr : read? (.df 0x310120) = some (.dacwr 1 0x0120) := by decide
/-- T-DA6: bytes 4F 00 00. -/
theorem test_decode_dacoff : read? (.df 0x4F0000) = some .dacoff := by decide
/-- T-HC18, T-HC19, R76, R77, R68. -/
theorem test_decode_refuses :
    [Wire.hc 0x0000000000, .hc 0x0900000000, .hc 0xFF00000000, .hc 0x0100000001, .hc 0x0300000002, .hc 0x0400000100,
      .hc 0x0600100000, .df 0x4F0001, .df 0x200000, .ev .reset 0].all (fun w => (read? w).isNone) = true := by decide
/-- The words of spec/opcode_table.json as it numbers them; an operand of zeros. -/
theorem test_decode_tableWords :
    decodeTableWord 40 0x0800000000 = some .rdStatus ∧ decodeTableWord 24 0x300000 = some (.dacwr 0 0) ∧
      decodeTableWord 24 0x4F0000 = some .dacoff ∧ decodeTableWord 8 1 = some .symFire := by decide

/-! ### States -/

/-- The next state of an outcome. -/
def next? : Result → Option State
  | .next t => some t
  | .fault _ => none
  | .refused _ => none

/-- The fault of an outcome. -/
def fault? : Result → Option Fault
  | .next _ => none
  | .fault f => some f
  | .refused _ => none

/-- The refusal of an outcome. -/
def refusal? : Result → Option Refusal
  | .next _ => none
  | .fault _ => none
  | .refused r => some r

/-- Reset, at REF. -/
def quiet : State := State.reset

/-- After `SET_AFSK` (T-HC2). -/
def afsk : State := { quiet with mode := .afsk, synEn := true }

/-- An RTTY character at a position, its next fire active. -/
def charTick (pos : BitVec 4) : State :=
  { quiet with txs := .rtty, schEn := true, rbyte := 0x24, pos := pos, tog := true }

/-- The payload A5 3C at 0x0100 (T-BN1). -/
def filled : State := { quiet with mem := [(0x0100, 0xA5), (0x0101, 0x3C)], region := { start := 0x0100, length := 2 } }

/-- A binary frame in that payload, its next fire active. -/
def bitTick (ptr : Word16) (mask : Byte) (rem : Word16) : State :=
  { filled with
    txs := .binary, schEn := true, synEn := true, bufferHeld := [filled.region], ptr := ptr, mask := mask, rem := rem, tog := true }

/-- After that frame's final tick (T-BN1), its `REM = 0` not observed yet. -/
def unobserved : State := { filled with bufferHeld := [filled.region, { start := 0x0100, length := 2 }], done := true }

/-- A binary frame in the space's last byte (T-BN3, T-BN6), its next fire active. -/
def topTick (mask : Byte) : State :=
  { quiet with
    mem := [(0xFFFF, 0x80)], region := { start := 0xFFFF, length := 1 }, txs := .binary, schEn := true, synEn := true
    bufferHeld := [{ start := 0xFFFF, length := 1 }], ptr := 0xFFFF, mask := mask, rem := 1, tog := true }

/-- T-DA7's stuck state. -/
def hung : State := { quiet with bus := some 0, stall := some [0x31], trace := [.csAssert, .byte 0x31] }

theorem ref_configOk : configOk Config.ref = true := by decide +kernel

/-- The invariant of a state at REF, from what can be evaluated. -/
theorem inv_of_checks (s : State) (hc : s.cfg = Config.ref) (he : s.schEn = true ↔ s.txs ≠ .idle)
    (hr : s.txs = .binary → 1 ≤ s.rem.toNat) (hm : ∃ i < 8, s.mask = 1#8 <<< i) (hp : s.phase.toNat < 250)
    (hx : s.pos.toNat ≤ 9) (ha : s.mode = .afsk → s.synEn = true) (ht : s.schEn = false → s.tog = false)
    (hw : Memory.wf s.mem = true) (hf : s.region.start.toNat + s.region.length ≤ 65536)
    (hh : s.txs = .binary → s.region ∈ s.bufferHeld)
    (hb : (List.range s.region.length).all
      (fun k => (Memory.read s.mem (s.region.start.toNat + k)).isSome) = true) : s.Inv where
  config := by rw [hc]; exact ref_configOk
  enabledIffActive := he
  remPositive := hr
  maskOneHot := hm
  phaseInPeriod := by rw [hc]; exact hp
  posInFrame := by rw [hc]; exact hx
  afskRuns := ha
  toggleRests := ht
  memoryCanonical := hw
  regionFits := hf
  bufferHeldInFrame := hh
  regionWritten := by
    intro a h
    simp only [Region.contains, Bool.and_eq_true, decide_eq_true_eq] at h
    have := List.all_eq_true.1 hb (a - s.region.start.toNat) (by simp; omega)
    rwa [Nat.add_sub_cancel' h.1] at this

theorem quiet_inv : quiet.Inv := inv_of_checks _ rfl (by decide) (by decide) (by decide) (by decide) (by decide) (by decide) (by decide)
    (by decide) (by decide) (by decide) (by decide)
theorem afsk_inv : afsk.Inv := inv_of_checks _ rfl (by decide) (by decide) (by decide) (by decide) (by decide) (by decide) (by decide)
    (by decide) (by decide) (by decide) (by decide)
theorem charTick_inv : (charTick 9).Inv := inv_of_checks _ rfl (by decide) (by decide) (by decide) (by decide) (by decide) (by decide) (by decide)
    (by decide) (by decide) (by decide) (by decide)
theorem filled_inv : filled.Inv := inv_of_checks _ rfl (by decide) (by decide) (by decide) (by decide) (by decide) (by decide) (by decide)
    (by decide) (by decide) (by decide) (by decide)
theorem bitTick_inv : (bitTick 0x0101 1 1).Inv := inv_of_checks _ rfl (by decide) (by decide) (by decide) (by decide) (by decide) (by decide) (by decide)
    (by decide) (by decide) (by decide) (by decide)
theorem bitTick_outside_inv : (bitTick 0x0102 0x80 1).Inv := inv_of_checks _ rfl (by decide) (by decide) (by decide) (by decide) (by decide) (by decide) (by decide)
    (by decide) (by decide) (by decide) (by decide)
theorem topTick_inv : (topTick 1).Inv ∧ (topTick 0x80).Inv :=
  ⟨inv_of_checks _ rfl (by decide) (by decide) (by decide) (by decide) (by decide) (by decide) (by decide)
    (by decide) (by decide) (by decide) (by decide),
   inv_of_checks _ rfl (by decide) (by decide) (by decide) (by decide) (by decide) (by decide) (by decide)
    (by decide) (by decide) (by decide) (by decide)⟩

/-- A state whose bus always completes is ready. -/
theorem ready_of_none {s : State} (hl : s.stall = none) (hb : s.bus = none) : BusReady s := ⟨hl, by simp [hb]⟩

/-- Three more transfers are enough. -/
theorem ready_of_three : BusReady { quiet with bus := some 3 } := ⟨rfl, fun k h => by cases h; decide⟩

/-! ### One step of each operation -/

/-- T-HC3: `SYN_EN` stays 1. -/
theorem test_setFsk : (next? (exec .setFsk afsk)).map statusWord = some 0x00000010 := by decide
/-- T-VI1. -/
theorem test_setFsk_busy : fault? (exec .setFsk (charTick 0)) = some (.configWhileBusy 0x0100000000) := by decide
/-- T-HC2: no bus frame. -/
theorem test_setAfsk : (next? (exec .setAfsk quiet)).map (fun t => (statusWord t, t.trace)) = some (0x00000030, []) := by
  decide
/-- T-HC13. -/
theorem test_setAfsk_busy : fault? (exec .setAfsk (charTick 0)) = some (.configWhileBusy 0x0200000000) := by decide
/-- T-HC4. -/
theorem test_setBaud : (next? (exec (.setBaud 1) quiet)).map statusWord = some 0x00000040 := by decide
/-- T-HC5. -/
theorem test_setBaud_back :
    (next? (exec (.setBaud 0) { quiet with baud := .baud300 })).map statusWord = some 0x00000000 := by decide
/-- T-HC6. -/
theorem test_rttySend : (next? (exec (.rttySend 0x24) quiet)).map (fun t => (statusWord t, t.rbyte, t.trace)) =
    some (0x0000000A, 0x24, []) := by decide
/-- T-HC14. -/
theorem test_rttySend_busy :
    fault? (exec (.rttySend 0x41) (bitTick 0x0100 0x80 12)) = some (.startWhileBusy 0x0400000041) := by decide
/-- T-HC7. -/
theorem test_binSend : (next? (exec (.binSend 0x0100 12) quiet)).map (fun t => (statusWord t, t.mask, t.ptr)) =
    some (0x000C001C, 0x80, 0x0100) := by decide
/-- T-HC15. -/
theorem test_binSend_zero : refusal? (exec (.binSend 0x0100 0) quiet) = some (.zeroBitCount 0x0501000000) := by decide
/-- T-HC9. -/
theorem test_dacWrite : (next? (exec (.dacWrite 1 0xFFFF) quiet)).map (fun t => (t.trace, t.daclast)) =
    some ([.csAssert, .byte 0x31, .byte 0xFF, .byte 0xFF, .csRelease], 0xFFFF) := by decide
/-- T-HC16: the bus belongs to the synthesizer. -/
theorem test_dacWrite_busy : fault? (exec (.dacWrite 0 0x8000) afsk) = some (.configWhileBusy 0x0600008000) := by decide
/-- T-HC10. -/
theorem test_dacOff : (next? (exec .dacOff quiet)).map (fun t => (t.trace, decide (t.registers = quiet.registers))) =
    some ([.csAssert, .byte 0x4F, .byte 0x00, .byte 0x00, .csRelease], true) := by decide
/-- T-HC11. -/
theorem test_rdStatus : (next? (exec .rdStatus { quiet with synEn := true, done := true })).map (·.answers) =
    some [0x00000011] := by decide
/-- T-SC3: the start bit, in FSK mode. -/
theorem test_symFire_start : (next? (exec .symFire (charTick 0))).map (fun t => (t.trace, t.pos, t.tone, t.tog)) =
    some ([.sym false, .csAssert, .byte 0x31, .byte 0x00, .byte 0x00, .csRelease], 1, false, false) := by decide
/-- T-BN2, the last bit: the strobe, `PTR` past the byte, `DONE`. -/
theorem test_symFire_lastBit : (next? (exec .symFire { bitTick 0x0101 1 1 with mode := .afsk })).map
    (fun t => (t.trace, t.ptr, t.mask, statusWord t)) = some ([.sym false, .wdtKick], 0x0102, 0x80, 0x00000031) := by
  decide
/-- T-SY1. -/
theorem test_smpFire : (next? (exec .smpFire afsk)).map (fun t => (t.phase, t.daclast, t.trace)) =
    some (4, 0x8C00, [.csAssert, .byte 0x31, .byte 0x8C, .byte 0x00, .csRelease]) := by decide
/-- T-SY8: the sum 256 needs the ninth bit. -/
theorem test_smpFire_wraps : (next? (exec .smpFire { afsk with phase := 249, tone := false })).map
    (fun t => (t.phase, t.daclast)) = some (6, 0x9300) := by decide
/-- T-RS1. -/
theorem test_reset : (next? (exec .reset (bitTick 0x0100 0x04 7))).map (fun t => (t.registers, t.trace)) =
    some (Registers.reset, []) := by decide
/-- T-RS3: the trace keeps its cut frame. -/
theorem test_reset_hung : (next? (exec .reset hung)).map (fun t => (t.registers, t.trace, t.stall)) =
    some (Registers.reset, [.csAssert, .byte 0x31], none) := by decide
/-- T-DA5: high byte first. -/
theorem test_dacwr : (next? (exec (.dacwr 1 0x00FF) quiet)).map (fun t => (t.trace, t.daclast)) =
    some ([.csAssert, .byte 0x31, .byte 0x00, .byte 0xFF, .csRelease], 0x00FF) := by decide
/-- T-DA7: the second byte stalls. -/
theorem test_dacwr_stalls : (next? (exec (.dacwr 1 0x0120) { quiet with bus := some 1 })).map
    (fun t => (t.trace, t.daclast, t.stall)) = some ([.csAssert, .byte 0x31], 0, some [0x31]) := by decide
/-- T-DA6. -/
theorem test_dacoff : (next? (exec .dacoff quiet)).map (fun t => (t.trace, t.dac.powered)) =
    some ([.csAssert, .byte 0x4F, .byte 0x00, .byte 0x00, .csRelease], false) := by decide
/-- T-HC17, by the step. -/
theorem test_step_refuses_channel :
    refusal? (step (quiet.withFetchWord 40 0x0600028000)) = some (.illegalCommand 0x0600028000) := by decide +kernel
/-- T-VI3. -/
theorem test_poke_busy : fault? (deliver (.poke 0x0101 0) (bitTick 0x0100 0x80 12)) = some (.bufferTouched 0x0101) := by
  decide
/-- R56: the declared buffer is not the host's during an RTTY character either. -/
theorem test_poke_rtty :
    fault? (deliver (.poke 0x0101 0) { filled with txs := .rtty, schEn := true }) = some (.bufferTouched 0x0101) := by decide
/-- R44: after the final tick the host must still observe `REM = 0` before it writes, another buffer declared or not. -/
theorem test_poke_unobserved :
    fault? (deliver (.poke 0x0101 0) unobserved) = some (.bufferTouched 0x0101) ∧
      ((next? (deliver (.declareBuffer 0x0200 [0x00]) unobserved)).bind fun t => fault? (deliver (.poke 0x0101 0) t)) =
        some (.bufferTouched 0x0101) := by decide
/-- R44: the status read that answers `REM = 0` gives the buffer back. -/
theorem test_rdStatus_observes : (next? (exec .rdStatus unobserved)).map (·.bufferHeld) = some [] := by decide
/-- R56: no declaration during a character. -/
theorem test_declare_rtty :
    fault? (deliver (.declareBuffer 0x0200 [0x00]) { filled with txs := .rtty, schEn := true }) =
      some (.bufferTouched 0x0200) := by decide
/-- T-DA2 after T-DA6: the channel takes its word, and `DAC_ON` stays 0 (D39). -/
theorem test_device_stays_off : (next? (exec (.dacwr 1 0x0120) { quiet with dac := { quiet.dac with powered := false } })).map
    (fun t => (t.dac.fine, t.dac.powered)) = some (some 0x0120, false) := by decide
/-- R62: no frame beside the synthesizer's. -/
theorem test_dacwr_busy : fault? (exec (.dacwr 0 0x8000) afsk) = some (.configWhileBusy 0x0600008000) := by decide
/-- R77. -/
theorem test_step_refuses_frame :
    refusal? (step (quiet.withFetchWord 24 0x4F0001)) = some (.foreignFrame 0x4F0001) := by decide +kernel
/-- T-CK4: what stands before the first `$`, and every later `$`, is left out. -/
theorem test_checksum : checksum [0x61, 0x62, 0x24, 0x58, 0x24, 0x59] = some 0x51C5 := by decide +kernel
/-- T-CK1. -/
theorem test_crc16Step : crc16Step 0xFFFF 0x54 = 0xFB81 := by decide
/-- T-CK2. -/
theorem test_checksum_golden : checksum [0x24, 0x24, 0x54, 0x45, 0x53, 0x54] = some 0x8CCA := by decide +kernel
/-- T-CK11. -/
theorem test_suffix : checksumSuffix 0x00AB = [0x2A, 0x30, 0x30, 0x41, 0x42, 0x0A] := by decide

/-! ### Witnesses: states and operands that meet the hypotheses of each statement -/

theorem witness_EncodeOfDecode : decode (.hc 0x0400000024) = .ok (.rttySend 0x24) := rfl

theorem witness_IllegalWordsRefused :
    let s : State := { quiet with inbox := [.wire (.hc 0x0900000000)] }
    configOk s.cfg = true ∧ s.stall = none ∧ s.inbox = [.wire (.hc 0x0900000000)] ∧
      illegalWord s.cfg 0x0900000000 ∧ illegalWord s.cfg 0x0000000000 ∧ illegalWord s.cfg 0x0300000002 ∧
      illegalWord s.cfg 0x0600028000 ∧ ¬ illegalWord s.cfg 0x0600018000 ∧ ¬ illegalWord s.cfg 0x05FFFFFFFF :=
  ⟨ref_configOk, rfl, rfl, by unfold illegalWord; decide, by unfold illegalWord; decide, by unfold illegalWord; decide,
    by unfold illegalWord; decide, by unfold illegalWord; decide, by unfold illegalWord; decide⟩

theorem witness_ForeignFramesRefused :
    let s : State := { quiet with inbox := [.wire (.df 0x4F0001)] }
    configOk s.cfg = true ∧ s.stall = none ∧ s.inbox = [.wire (.df 0x4F0001)] ∧
      ¬ emittedFrame s.cfg 0x4F0001 ∧ ¬ emittedFrame s.cfg 0x320000 ∧ emittedFrame s.cfg 0x4F0000 ∧
      emittedFrame s.cfg 0x31FFFF :=
  ⟨ref_configOk, rfl, rfl, by unfold emittedFrame; decide, by unfold emittedFrame; decide,
    by unfold emittedFrame; decide, by unfold emittedFrame; decide⟩

theorem witness_StepRunsDecoded :
    let s : State := quiet.withFetchWord 40 0x0400000024
    configOk s.cfg = true ∧ s.inbox = [.wire (.hc 0x0400000024)] ∧
      decode (.hc 0x0400000024) = .ok (.rttySend 0x24) := ⟨ref_configOk, rfl, rfl⟩

theorem witness_QuietMachineRests : configOk quiet.cfg = true ∧ quiet.inbox = [] := ⟨ref_configOk, rfl⟩

theorem witness_BrokenConfigRefused :
    configOk { Config.ref with chFine := 0 } = false ∧ configOk { Config.ref with stepTableRamp := true } = false ∧
      configOk { Config.ref with markStep := 126 } = false ∧ configOk { Config.ref with markStep := 125 } = true := by
  decide +kernel

theorem witness_ResetMeetsInvariant : configOk Config.ref = true := ref_configOk

theorem witness_StepKeepsInvariant :
    ({ quiet with inbox := [.wire (.ev .reset 1)] } : State).Inv ∧
      (next? (step { quiet with inbox := [.wire (.ev .reset 1)] })).isSome = true :=
  ⟨inv_of_checks _ rfl (by decide) (by decide) (by decide) (by decide) (by decide) (by decide) (by decide)
    (by decide) (by decide) (by decide) (by decide), by decide +kernel⟩

/-- Live and idle, live and busy: the clauses of `SetFskSelectsFsk`, `SetAfskSelectsAfsk`, `SetBaudSelectsPreset`,
`RttySendStartsCharacter`, `BinSendStartsFrame` (both counts), `DacOffSendsPowerOff`, `StatusReadAnswers` and
`ResetRestoresRegisters`. -/
theorem witness_hostCommands :
    (quiet.stall = none ∧ quiet.txs = .idle ∧ ¬ (quiet.mode = .afsk ∧ quiet.synEn = true)) ∧
      ((charTick 9).stall = none ∧ (charTick 9).txs ≠ .idle) ∧ (0xFFFF : Word16) ≠ 0 ∧ (0 : Word16) = 0 := by decide

theorem witness_DacWriteSendsWord :
    (quiet.stall = none ∧ 1 = quiet.cfg.chFine ∧ quiet.txs = .idle ∧ ¬ (quiet.mode = .afsk ∧ quiet.synEn = true)) ∧
      (afsk.stall = none ∧ 0 = afsk.cfg.chCoarse ∧ afsk.mode = .afsk ∧ afsk.synEn = true) ∧
      (2 ≠ quiet.cfg.chCoarse ∧ 2 ≠ quiet.cfg.chFine) := by decide

/-- Both boundaries of `BusReady`, the hypothesis of `PowerOffFrameOnBus` and of the frames' statements: no stall to
come, and exactly three more transfers. -/
theorem witness_BusReady : BusReady quiet ∧ BusReady { quiet with bus := some 3 } :=
  ⟨ready_of_none rfl rfl, ready_of_three⟩

theorem witness_SymFireMaskedOrInactive :
    (quiet.stall = none ∧ quiet.schEn = false) ∧
      (({ charTick 0 with tog := false } : State).schEn = true ∧ ({ charTick 0 with tog := false } : State).tog = false) := by
  decide

/-- The start bit, the last data bit and the last stop bit. -/
theorem witness_RttyTickSendsPosition (pos : BitVec 4) (h : pos = 0 ∨ pos = 7 ∨ pos = 9) :
    (charTick pos).stall = none ∧ (charTick pos).schEn = true ∧ (charTick pos).tog = true ∧
      (charTick pos).txs = .rtty ∧ BusReady (charTick pos) ∧
      (pos = 9 ↔ (charTick pos).pos.toNat = (charTick pos).cfg.rttyBits + (charTick pos).cfg.rttyStop) := by
  refine ⟨rfl, rfl, rfl, rfl, ready_of_none rfl rfl, ?_⟩
  rcases h with rfl | rfl | rfl <;> decide

/-- The four rows: inside a byte or at its end, with more bits or with none. -/
theorem witness_BinaryTickSendsMaskedBit (mask : Byte) (rem : Word16) (_ : mask = 0x80 ∨ mask = 1)
    (_ : rem = 2 ∨ rem = 1) :
    let s := bitTick 0x0101 mask rem
    s.stall = none ∧ s.schEn = true ∧ s.tog = true ∧ s.txs = .binary ∧ BusReady s ∧
      s.region.contains s.ptr.toNat = true ∧ Memory.read s.mem s.ptr.toNat = some 0x3C ∧ s.ptr ≠ 0xFFFF :=
  ⟨rfl, rfl, rfl, rfl, ready_of_none rfl rfl, rfl, rfl, by show (0x0101 : Word16) ≠ 0xFFFF; decide⟩

/-- The one row at the top of the space: the mask is not 1. -/
theorem witness_BinaryTick_top :
    (topTick 0x80).stall = none ∧ (topTick 0x80).txs = .binary ∧ (topTick 0x80).ptr = 0xFFFF ∧
      (topTick 0x80).region.contains 0xFFFF = true ∧ Memory.read (topTick 0x80).mem 0xFFFF = some 0x80 := by decide

theorem witness_BinaryTickViolations :
    ((bitTick 0x0102 0x80 1).Inv ∧ (bitTick 0x0102 0x80 1).region.contains 0x0102 = false) ∧
      ((topTick 1).Inv ∧ (topTick 1).region.contains 0xFFFF = true ∧ (topTick 1).mask = 1) ∧
      ((topTick 0x80).Inv ∧ (topTick 0x80).region.contains 0xFFFF = true ∧ (topTick 0x80).mask ≠ 1) :=
  ⟨⟨bitTick_outside_inv, by decide⟩, ⟨topTick_inv.1, by decide⟩, ⟨topTick_inv.2, by decide⟩⟩

theorem witness_SampleFireWritesMagnitude :
    let s : State := { afsk with phase := 249 }
    configOk s.cfg = true ∧ s.phase.toNat < s.cfg.period ∧ s.mode = .afsk ∧ s.synEn = true ∧ BusReady s :=
  ⟨ref_configOk, by decide, rfl, rfl, ready_of_none rfl rfl⟩

theorem witness_SampleFireBypassed :
    quiet.mode = .fsk ∧ Instr.dacoff ≠ .reset ∧ ∃ t, exec .dacoff quiet = .next t := ⟨rfl, by decide, _, rfl⟩

theorem witness_SampleFireMasked : ({ afsk with synEn := false } : State).synEn = false := by decide

/-- Both ends of the phase and of the step (T-SY13, T-SY14); the hypotheses of `PhaseReturns` are the same. -/
theorem witness_AdvanceIsModularSum :
    configOk Config.ref = true ∧ (249 : Byte).toNat < Config.ref.period ∧ (0 : Byte).toNat < Config.ref.period ∧
      1 ≤ (125 : Byte).toNat ∧ (125 : Byte).toNat ≤ Config.ref.half ∧ 1 ≤ (1 : Byte).toNat := by decide +kernel

/-- Both sides of the boundary p = HALF, and both ends (T-SY2, T-SY3). -/
theorem witness_MagnitudeBySymmetry :
    configOk Config.ref = true ∧ (0 : Byte).toNat < Config.ref.half ∧ (124 : Byte).toNat < Config.ref.half ∧
      Config.ref.half ≤ (125 : Byte).toNat ∧ (249 : Byte).toNat < Config.ref.period := by decide +kernel

theorem witness_WaveformReflects :
    configOk Config.ref = true ∧ (62 : Byte).toNat < Config.ref.half ∧
      (187 : Byte).toNat = (62 : Byte).toNat + Config.ref.half ∧ magnitude Config.ref 62 = some 255 ∧
      magnitude Config.ref 187 = some 0 := by decide +kernel

/-- Also `PowerOffFrameOnBus`: free, in use by a character, in use by the synthesizer. -/
theorem witness_WriteFrameOnBus :
    (quiet.stall = none ∧ 0 = quiet.cfg.chCoarse ∧ quiet.txs = .idle ∧ ¬ (quiet.mode = .afsk ∧ quiet.synEn = true)) ∧
      ((charTick 0).stall = none ∧ (charTick 0).txs ≠ .idle) ∧
      (afsk.stall = none ∧ afsk.mode = .afsk ∧ afsk.synEn = true) ∧
      15 ≠ quiet.cfg.chCoarse ∧ 15 ≠ quiet.cfg.chFine := by decide

theorem witness_DeviceHoldsWord :
    configOk quiet.cfg = true ∧ BusReady quiet ∧ quiet.dac.cutFrame = false ∧ quiet.dac.powered = true ∧
      (∃ t, exec (.dacwr 0 0x8000) quiet = .next t) ∧ (∃ t, exec (.dacwr 1 0x8000) quiet = .next t) ∧
      ∃ t, exec .dacoff quiet = .next t :=
  ⟨ref_configOk, ready_of_none rfl rfl, rfl, rfl, ⟨_, rfl⟩, ⟨_, rfl⟩, ⟨_, rfl⟩⟩

/-- A writer that hangs at once and a tick that hangs in its last byte. -/
theorem witness_HungTransactionWritesNoRegister :
    (quiet.stall = none ∧ ∃ t, exec (.dacwr 1 0x0120) { quiet with bus := some 0 } = .next t ∧ t.stall = some []) ∧
      ∃ t, exec .symFire { charTick 9 with bus := some 2 } = .next t ∧ t.stall = some [0x31, 0x01] :=
  ⟨⟨rfl, _, rfl, rfl⟩, _, rfl, rfl⟩

/-- Each clause, on a bus that completes nothing more or two more transfers. -/
theorem witness_StalledBusHangsWriter (k : Nat) (hk : k = 0 ∨ k = 2) :
    k < 3 ∧
      (let s : State := { quiet with bus := some k }
       s.stall = none ∧ s.bus = some k ∧ 1 = s.cfg.chFine ∧ s.txs = .idle ∧ s.mode ≠ .afsk) ∧
      (let s : State := { charTick 9 with bus := some k }
       s.stall = none ∧ s.bus = some k ∧ s.mode = .fsk ∧ s.schEn = true ∧ s.tog = true ∧ s.txs = .rtty) ∧
      (let s : State := { bitTick 0x0101 1 1 with bus := some k }
       s.stall = none ∧ s.bus = some k ∧ s.mode = .fsk ∧ s.schEn = true ∧ s.tog = true ∧ s.txs = .binary ∧
         s.region.contains s.ptr.toNat = true ∧ Memory.read s.mem s.ptr.toNat = some 0x3C ∧ s.ptr ≠ 0xFFFF) ∧
      (let s : State := { afsk with bus := some k, phase := 249 }
       s.stall = none ∧ s.bus = some k ∧ configOk s.cfg = true ∧ s.phase.toNat < s.cfg.period ∧ s.mode = .afsk ∧
         s.synEn = true) :=
  ⟨by omega, ⟨rfl, rfl, rfl, rfl, by show Mode.fsk ≠ .afsk; decide⟩, ⟨rfl, rfl, rfl, rfl, rfl, rfl⟩,
    ⟨rfl, rfl, rfl, rfl, rfl, rfl, rfl, rfl, by show (0x0101 : Word16) ≠ 0xFFFF; decide⟩,
    ⟨rfl, rfl, ref_configOk, by show (249 : Byte).toNat < Config.ref.period; decide, rfl, rfl⟩⟩

theorem witness_OnlyResetLeavesHang : hung.stall = some [0x31] := rfl

theorem witness_StepsEmitWholeFrames :
    (next? (step (quiet.withFetchWord 24 0x4F0000))).isSome = true ∧
      (next? (step (({ quiet with bus := some 1 } : State).withFetchWord 24 0x310120))).map (·.stall) =
        some (some [0x31]) := by
  decide +kernel

theorem witness_OneSourceOfFrames :
    (quiet.Inv ∧ quiet.stall = none ∧ quiet.mode = .fsk ∧ exec .smpFire quiet = .next quiet) ∧
      (afsk.Inv ∧ afsk.mode = .afsk ∧ exec .symFire afsk = .next afsk) ∧
      (quiet.txs = .idle ∧ exec .symFire quiet = .next quiet) ∧ ((charTick 9).Inv ∧ (charTick 9).txs ≠ .idle) :=
  ⟨⟨quiet_inv, rfl, rfl, rfl⟩, ⟨afsk_inv, rfl, rfl⟩, ⟨rfl, rfl⟩, charTick_inv, by decide⟩

/-- A final RTTY tick, a final binary tick, and a reset. -/
theorem witness_NothingCancelsTransmission :
    (∃ t, exec .symFire (charTick 9) = .next t ∧ (charTick 9).txs ≠ .idle ∧ t.txs = .idle) ∧
      (∃ t, exec .symFire (bitTick 0x0101 1 1) = .next t ∧ t.txs = .idle) ∧
      ∃ t, exec .reset (charTick 0) = .next t ∧ t.txs = .idle :=
  ⟨⟨_, rfl, by decide, rfl⟩, ⟨_, rfl, rfl⟩, _, rfl, rfl⟩

theorem witness_DoneRaisedOnlyByScheduler :
    (∃ t, exec .symFire (charTick 9) = .next t ∧ (charTick 9).done = false ∧ t.done = true) ∧
      ∃ t, exec (.rttySend 0x41) { quiet with done := true } = .next t ∧ t.done = false :=
  ⟨⟨_, rfl, rfl, rfl⟩, _, rfl, rfl⟩

theorem witness_ModeFrozenDuringTransmission :
    ∃ t, exec .rdStatus (charTick 9) = .next t ∧ (charTick 9).txs ≠ .idle ∧ Instr.rdStatus ≠ .reset :=
  ⟨_, rfl, by decide, by decide⟩

theorem witness_RegistersChangeOnlyByTheirWriters : ∃ t, exec .setAfsk quiet = .next t ∧ Instr.setAfsk ≠ .reset :=
  ⟨_, rfl, by decide⟩

/-- The window opens, and closes by a status read and by a reset. -/
theorem witness_BufferWindow :
    (quiet.bufferHeld = [] ∧ ∃ t, exec (.binSend 0x0100 12) quiet = .next t ∧ t.bufferHeld ≠ []) ∧
      (unobserved.rem = 0 ∧ ∃ t, exec .rdStatus unobserved = .next t ∧ t.bufferHeld = []) ∧
      ∃ t, exec .reset unobserved = .next t ∧ t.bufferHeld = [] :=
  ⟨⟨rfl, _, rfl, List.cons_ne_nil _ _⟩, ⟨rfl, _, rfl, rfl⟩, _, rfl, rfl⟩

theorem witness_BufferReadOnlyToBlock : ∃ t, exec .symFire (bitTick 0x0101 1 1) = .next t := ⟨_, rfl⟩

/-- An active tick that turns the tone to space, and a sample. -/
theorem witness_FiresInEitherOrder :
    let s : State := { charTick 0 with mode := .afsk, synEn := true }
    s.Inv ∧ s.stall = none ∧ s.bus = none ∧ s.mode = .afsk ∧ (∃ u, exec .symFire s = .next u) ∧
      ∃ v, exec .smpFire s = .next v :=
  ⟨inv_of_checks _ rfl (by decide) (by decide) (by decide) (by decide) (by decide) (by decide) (by decide)
    (by decide) (by decide) (by decide) (by decide), rfl, rfl, rfl, ⟨_, rfl⟩, _, rfl⟩

theorem witness_CharacterIsFramed : quiet.Inv ∧ quiet.stall = none ∧ quiet.bus = none ∧ quiet.txs = .idle :=
  ⟨quiet_inv, rfl, rfl, rfl⟩

/-- T-BN1, and T-BN2 whose last bit ends the last byte of the buffer. -/
theorem witness_BinaryFrameIsSent (n : Word16) (hn : n = 12 ∨ n = 16) :
    filled.Inv ∧ filled.stall = none ∧ filled.bus = none ∧ filled.txs = .idle ∧ n ≠ 0 ∧
      (∀ k < n.toNat, filled.region.contains ((0x0100 : Word16).toNat + k / 8) = true) ∧
      (0x0100 : Word16).toNat + n.toNat / 8 < 65536 := by
  refine ⟨filled_inv, rfl, rfl, rfl, ?_⟩
  rcases hn with rfl | rfl <;> decide

/-- Both clauses: the last byte of the buffer in a frame, in a character and after the final tick, there also with
another buffer declared; the byte after it; and an idle host. -/
theorem witness_HostWriteTouchesOneByte :
    ((bitTick 0x0100 0x80 12).stall = none ∧ (bitTick 0x0100 0x80 12).Barred (0x0101 : Word16).toNat) ∧
      ({ filled with txs := .rtty, schEn := true } : State).Barred (0x0101 : Word16).toNat ∧
      ({ unobserved with region := { start := 0x0200, length := 1 } } : State).Barred (0x0101 : Word16).toNat ∧
      ¬ (bitTick 0x0100 0x80 12).Barred (0x0102 : Word16).toNat ∧ ¬ unobserved.Barred (0x0102 : Word16).toNat ∧
      ¬ filled.Barred (0x0101 : Word16).toNat := by decide

/-- A buffer that ends with the space, of an idle host and beside a held buffer; one that takes in a held byte; and a
character and a binary frame. -/
theorem witness_DeclaredBufferHoldsBytes :
    (quiet.stall = none ∧ quiet.txs = .idle ∧ (0xFFFE : Word16).toNat + [0xA5, 0x3C].length ≤ 65536 ∧
      ∀ k < 2, ¬ quiet.Barred ((0xFFFE : Word16).toNat + k)) ∧
      (unobserved.txs = .idle ∧ ∀ k < 2, ¬ unobserved.Barred ((0xFFFE : Word16).toNat + k)) ∧
      (∃ k < 2, unobserved.Barred ((0x00FF : Word16).toNat + k)) ∧ (bitTick 0x0100 0x80 12).txs ≠ .idle ∧
      (charTick 0).txs ≠ .idle := by
  decide

theorem witness_ChecksumSkipsDelimiters :
    (∀ x ∈ ([0x61] : List Byte), x ≠ 0x24 ∧ x ≠ 0x00) ∧ (∀ x ∈ ([0x58, 0x24, 0x59] : List Byte), x ≠ 0x00) ∧
      quiet.stall = none := by decide

theorem witness_SentenceSendsTextThenSuffix :
    quiet.stall = none ∧ (∀ x ∈ ([0x24] : List Byte), x ≠ 0x00) ∧ checksum ([0x24] ++ [0x00, 0x41]) = some 0xFFFF := by
  decide

theorem witness_HostWaitsPollStatus :
    ({ quiet with script := [.waitDone] } : State).script = [.waitDone] ∧
      ({ quiet with script := [.waitRem0] } : State).script = [.waitRem0] ∧
      ({ quiet with script := [.wdtReset] } : State).script = [.wdtReset] ∧
      ({ quiet with script := [.command .setFsk] } : State).script = [.command .setFsk] ∧ quiet.stall = none := by decide

theorem witness_BootWritesBaseCarrier :
    configOk quiet.cfg = true ∧ BusReady quiet ∧ quiet.txs = .idle ∧ ¬ (quiet.mode = .afsk ∧ quiet.synEn = true) ∧
      quiet.dac.cutFrame = false ∧ quiet.script = [] :=
  ⟨ref_configOk, ready_of_none rfl rfl, rfl, by decide, rfl, rfl⟩

end Sys2Proof.Tests
end

section
/-! What the check on the parameters says, and the step of a configuration that fails it. -/

namespace Sys2Proof.Machine

/-- The constraints of R6 and R7 and no StepTable ramp (R122), read off the check. -/
theorem configOk_iff (c : Config) :
    configOk c = true ↔
      (c.rttyBits = 7 ∨ c.rttyBits = 8) ∧ (c.rttyStop = 1 ∨ c.rttyStop = 2) ∧
      1 ≤ c.half ∧ c.half ≤ 128 ∧ c.sineRom.length = c.half ∧
      (∀ e ∈ c.sineRom, e.toNat ≤ c.maxMag.toNat) ∧
      1 ≤ c.markStep.toNat ∧ c.markStep.toNat ≤ c.half ∧
      1 ≤ c.spaceStep.toNat ∧ c.spaceStep.toNat ≤ c.half ∧
      c.markStep ≠ c.spaceStep ∧ c.chCoarse ≠ c.chFine ∧ c.stepTableRamp = false := by
  simp only [configOk, Bool.and_eq_true, Bool.or_eq_true, beq_iff_eq, bne_iff_ne, decide_eq_true_eq, List.all_eq_true,
    Bool.not_eq_true', holdsEntries_iff, and_assoc]

/-- A configuration that breaks a constraint lets no result through. -/
theorem whenConfigOk_of_not_configOk {s : State} (h : configOk s.cfg = false) (r : Result) :
    whenConfigOk s r = .refused (configRefusal s.cfg) := by
  simp [whenConfigOk, h]

/-- Whatever the inbox holds, the step of a broken configuration is the refusal that names why. -/
theorem step_of_not_configOk {s : State} (h : configOk s.cfg = false) : step s = .refused (configRefusal s.cfg) := by
  unfold step cycle
  split <;> exact whenConfigOk_of_not_configOk h _

/-- Settles O7: the check read off as its constraints, and the refusal at either shape of the inbox. -/
theorem brokenConfigRefused : Obligations.BrokenConfigRefused :=
  fun s => ⟨configOk_iff s.cfg, step_of_not_configOk⟩

end Sys2Proof.Machine
end

section
/-! The fields of the status word (spec/10_state.md R35), read back from the word. -/

namespace Sys2Proof.Machine

/-- Bits 31:16, which a host that waits for `REM = 0` reads (R44, R134). -/
@[simp] theorem statusRem_statusWord (s : State) : statusRem (statusWord s) = s.rem := by
  simp (disch := omega) only [statusRem, statusWord, BitVec.extractLsb'_append_eq_of_le]
  simp

theorem statusWord_reserved (s : State) : (statusWord s).extractLsb' 7 9 = 0 := by
  simp (disch := omega) only [statusWord, BitVec.extractLsb'_append_eq_of_le, BitVec.extractLsb'_append_eq_of_add_le]
  simp

theorem statusWord_txs (s : State) : (statusWord s).extractLsb' 1 2 = s.txs.code := by
  simp (disch := omega) only [statusWord, BitVec.extractLsb'_append_eq_of_le, BitVec.extractLsb'_append_eq_of_add_le]
  simp

theorem statusWord_flags (s : State) :
    (statusWord s).getLsbD 6 = s.baud.code.getLsbD 0 ∧ (statusWord s).getLsbD 5 = s.mode.code.getLsbD 0 ∧
    (statusWord s).getLsbD 4 = s.synEn ∧ (statusWord s).getLsbD 3 = s.schEn ∧ (statusWord s).getLsbD 0 = s.done := by
  simp only [statusWord, BitVec.getLsbD_append]
  simp

/-- Bit 0, which a host that waits for `DONE` reads (R134). -/
@[simp] theorem statusDone_statusWord (s : State) : statusDone (statusWord s) = s.done := (statusWord_flags s).2.2.2.2

theorem TxState.code_inj {a b : TxState} : a.code = b.code ↔ a = b := by
  cases a <;> cases b <;> decide

theorem Mode.code_bit {m : Mode} : m.code.getLsbD 0 = true ↔ m = .afsk := by
  cases m <;> decide

theorem Baud.code_bit {b : Baud} : b.code.getLsbD 0 = true ↔ b = .baud300 := by
  cases b <;> decide

/-- Settles O17: each field of the concatenation read back, and the codes of `TXS`, `MODE` and `BAUD` told apart. -/
theorem statusWordLayout : Obligations.StatusWordLayout := by
  intro s
  obtain ⟨hbaud, hmode, hsyn, hsch, hdone⟩ := statusWord_flags s
  rw [hbaud, hmode, statusWord_txs]
  exact ⟨statusRem_statusWord s, statusWord_reserved s, Baud.code_bit, Mode.code_bit, hsyn, hsch,
    TxState.code_inj (b := .idle), TxState.code_inj (b := .rtty), TxState.code_inj (b := .binary), hdone⟩

end Sys2Proof.Machine
end

section
/-! Which registers each operation writes (spec/10_state.md R18, R28 to R30): the tick's register writes said once, and
what the fires and the bus transactions leave alone. -/

namespace Sys2Proof.Machine

/-- The binary arm's register writes (R101, R105), field by field. -/
theorem binaryAdvance_eq (s : State) :
    binaryAdvance s = { s with
      rem := s.rem - 1
      mask := if s.mask = 1 then 0x80 else s.mask >>> 1
      ptr := if s.mask = 1 then s.ptr + 1 else s.ptr
      tog := false
      trace := if s.mask = 1 then s.trace ++ [.wdtKick] else s.trace
      txs := if lastBit s.rem then .idle else s.txs
      done := lastBit s.rem || s.done
      schEn := !lastBit s.rem && s.schEn } := by
  unfold binaryAdvance
  by_cases hm : s.mask = 1 <;> cases lastBit s.rem <;>
    simp only [hm, if_true, if_false, Bool.false_eq_true] <;> rfl

/-- The RTTY arm's register writes (R102, R105), field by field. -/
theorem rttyAdvance_eq (s : State) :
    rttyAdvance s = { s with
      pos := if lastPosition s.cfg s.pos then s.pos else s.pos + 1
      tog := false
      txs := if lastPosition s.cfg s.pos then .idle else s.txs
      done := lastPosition s.cfg s.pos || s.done
      schEn := !lastPosition s.cfg s.pos && s.schEn } := by
  unfold rttyAdvance
  cases lastPosition s.cfg s.pos <;> simp [complete]

/-- What a symbol fire can lead to, its ticks and their hangs told apart: nothing, a toggle, a frame that hangs, or the
register writes of an arm after its modulated symbol. -/
theorem execSymFire_ends {s t : State} (h : execSymFire s = .next t) :
    t = s ∨
    (s.schEn = true ∧ ∃ b, t = { s with tog := b }) ∨
    (∃ b k b0 b1 b2, t = hungFrame k b0 b1 b2 (emit [.sym b] s)) ∨
    (s.schEn = true ∧ s.txs = .rtty ∧ ∃ b, t = rttyAdvance (modulated b s)) ∨
    (s.schEn = true ∧ s.txs = .binary ∧ ∃ b, t = binaryAdvance (modulated b s)) := by
  rcases execSymFire_cases h with
    ⟨rfl, -⟩ | ⟨-, hs, ⟨-, rfl⟩ | ⟨-, -, rfl⟩ | ⟨-, hx, rfl⟩ | ⟨-, hx, -, -, x, -, rfl⟩⟩
  · exact .inl rfl
  · exact .inr (.inl ⟨hs, true, rfl⟩)
  · exact .inr (.inl ⟨hs, false, rfl⟩)
  · rcases modulateThen_cases (rttyBit s.cfg s.rbyte s.pos) s rttyAdvance with ht | ⟨k, -, -, -, ht⟩
    · exact .inr (.inr (.inr (.inl ⟨hs, hx, _, ht⟩)))
    · exact .inr (.inr (.inl ⟨_, k, _, _, _, ht⟩))
  · rcases modulateThen_cases (maskedBit x s.mask) s binaryAdvance with ht | ⟨k, -, -, -, ht⟩
    · exact .inr (.inr (.inr (.inr ⟨hs, hx, _, ht⟩)))
    · exact .inr (.inr (.inl ⟨_, k, _, _, _, ht⟩))

/-- A symbol fire writes neither the operand of a character, nor the synthesizer's registers, nor the settings. -/
theorem execSymFire_frame {s t : State} (h : execSymFire s = .next t) :
    t.rbyte = s.rbyte ∧ t.phase = s.phase ∧ t.mode = s.mode ∧ t.baud = s.baud ∧ t.synEn = s.synEn := by
  rcases execSymFire_ends h with
    rfl | ⟨-, b, rfl⟩ | ⟨b, k, b0, b1, b2, rfl⟩ | ⟨-, -, b, rfl⟩ | ⟨-, -, b, rfl⟩
  · simp
  · simp
  · simp
  · simp [rttyAdvance_eq]
  · simp [binaryAdvance_eq]

/-- A symbol fire leaves `DONE` alone, or raises it as it returns the block to Idle (R29, R105). -/
theorem execSymFire_done {s t : State} (h : execSymFire s = .next t) :
    t.done = s.done ∨ (t.done = true ∧ s.txs ≠ .idle ∧ t.txs = .idle ∧ t.schEn = false) := by
  rcases execSymFire_ends h with
    rfl | ⟨-, b, rfl⟩ | ⟨b, k, b0, b1, b2, rfl⟩ | ⟨-, hx, b, rfl⟩ | ⟨-, hx, b, rfl⟩
  · simp
  · simp
  · simp
  · cases hl : lastPosition s.cfg s.pos <;> simp [rttyAdvance_eq, hl, hx]
  · cases hl : lastBit s.rem <;> simp [binaryAdvance_eq, hl, hx]

/-- What a sample fire can lead to: nothing, a frame that hangs, or the sample's word written and the phase advanced. -/
theorem execSmpFire_ends {s t : State} (h : execSmpFire s = .next t) :
    t = s ∨ (∃ k b0 b1 b2, t = hungFrame k b0 b1 b2 s) ∨
    ∃ v, t = { wrote s.cfg.chFine v s with phase := advance s.cfg s.phase (stepOf s.cfg s.tone) } := by
  rcases execSmpFire_cases h with ⟨rfl, -⟩ | ⟨-, -, -, mag, -, rfl⟩
  · exact .inl rfl
  · rcases dacWriteThen_cases s.cfg.chFine (sampleWord mag) s
      (fun t => { t with phase := advance s.cfg s.phase (stepOf s.cfg s.tone) }) with ht | ⟨k, -, -, ht⟩
    · exact .inr (.inr ⟨_, ht⟩)
    · exact .inr (.inl ⟨k, _, _, _, ht⟩)

@[simp] theorem wrote_daclast (ch : ChannelId) (v : Word16) (s : State) :
    (wrote ch v s).daclast = if ch = s.cfg.chFine then v else s.daclast := rfl

@[simp] theorem poweredOff_daclast (s : State) : (poweredOff s).daclast = s.daclast := rfl

/-- Settles O42: every operation's next state compared with its state, register by register; the fires by what they can
lead to, the writer's frames completed or hung. -/
theorem registersChangeOnlyByTheirWriters : Obligations.RegistersChangeOnlyByTheirWriters := by
  intro i s t h hr
  have hn := exec_next h
  cases i with
  | setFsk => obtain ⟨-, -, rfl⟩ := hn; simp
  | setAfsk => obtain ⟨-, -, rfl⟩ := hn; simp
  | setBaud p => obtain ⟨-, -, rfl⟩ := hn; simp
  | rttySend b => obtain ⟨-, -, rfl⟩ := hn; simp [startRtty]
  | binSend a n => obtain ⟨-, -, -, rfl⟩ := hn; simp [startBinary]
  | rdStatus => obtain ⟨-, rfl⟩ := hn; simp
  | symFire =>
    obtain ⟨hrbyte, hphase, hmode, hbaud, hsyn⟩ := execSymFire_frame hn
    simp [hrbyte, hphase, hmode, hbaud, hsyn]
  | smpFire =>
    rcases execSmpFire_ends hn with rfl | ⟨k, b0, b1, b2, rfl⟩ | ⟨v, rfl⟩
    · simp
    · simp
    · simp
  | reset => exact absurd rfl hr
  | dacWrite ch v =>
    obtain ⟨-, -, -, -, rfl | ⟨k, -, -, rfl⟩⟩ := hn
    · by_cases hc : ch = s.cfg.chFine <;> simp [hc]
    · simp
  | dacwr ch v =>
    obtain ⟨-, -, -, -, rfl | ⟨k, -, -, rfl⟩⟩ := hn
    · by_cases hc : ch = s.cfg.chFine <;> simp [hc]
    · simp
  | dacOff => obtain ⟨-, -, -, rfl | ⟨k, -, -, rfl⟩⟩ := hn <;> simp
  | dacoff => obtain ⟨-, -, -, rfl | ⟨k, -, -, rfl⟩⟩ := hn <;> simp

/-- Settles O40: O42 names the three writers of `DONE` beside the reset; the starts clear it, and a symbol fire raises it
only as it returns the block to Idle. -/
theorem doneRaisedOnlyByScheduler : Obligations.DoneRaisedOnlyByScheduler := by
  intro i s t h
  by_cases hr : i = .reset
  · subst hr
    have ht : t.done = false := by rw [exec_next h]; rfl
    simp [ht]
  obtain ⟨-, -, -, -, -, -, -, -, -, -, hdone, -⟩ := registersChangeOnlyByTheirWriters i s t h hr
  rcases hdone with hsame | ⟨b, rfl⟩ | ⟨a, n, rfl⟩ | rfl
  · rw [hsame]
    constructor <;> intro h1 h2 <;> simp [h1] at h2
  · obtain ⟨-, -, rfl⟩ := exec_next h
    simp [startRtty]
  · obtain ⟨-, -, -, rfl⟩ := exec_next h
    simp [startBinary]
  · rcases execSymFire_done h with hsame | ⟨ht, hx, htx, hsch⟩
    · rw [hsame]
      constructor <;> intro h1 h2 <;> simp [h1] at h2
    · simp [ht, hx, htx, hsch]

end Sys2Proof.Machine
end

section
/-! The invariant (spec/10_state.md R36): reset meets it, and every step keeps it. -/

namespace Sys2Proof.Machine

/-! ### Reset -/

/-- A state with the register values of R40 and sound data outside the block meets the invariant. -/
theorem inv_of_registers_reset {s : State} (hr : s.registers = Registers.reset) (hc : configOk s.cfg = true)
    (hm : Memory.wf s.mem = true) (hf : s.region.start.toNat + s.region.length ≤ 65536)
    (hw : ∀ a, s.region.contains a = true → (Memory.read s.mem a).isSome = true) : s.Inv := by
  simp only [State.registers, Registers.reset, Registers.mk.injEq] at hr
  obtain ⟨-, -, hphase, -, htxs, htog, hpos, -, hmask, -, -, hmode, -, hsch, -⟩ := hr
  obtain ⟨-, -, hhalf, -⟩ := (configOk_iff s.cfg).1 hc
  exact {
    config := hc
    enabledIffActive := by simp [hsch, htxs]
    remPositive := by simp [htxs]
    maskOneHot := ⟨7, by decide, hmask⟩
    phaseInPeriod := by simp only [hphase, Config.period, BitVec.toNat_zero, BitVec.ofNat_eq_ofNat]; omega
    posInFrame := by simp [hpos]
    afskRuns := by simp [hmode]
    toggleRests := fun _ => htog
    memoryCanonical := hm
    regionFits := hf
    bufferHeldInFrame := by simp [htxs]
    regionWritten := hw }

/-- Settles O8: nothing is declared after reset, and the registers are R40's by definition. -/
theorem resetMeetsInvariant : Obligations.ResetMeetsInvariant := by
  intro c hc
  have empty : ∀ a, (State.resetWith c).region.contains a = false := by
    simp [State.resetWith, Region.contains]
  refine ⟨inv_of_registers_reset rfl hc rfl (by simp [State.resetWith]) ?_, rfl⟩
  intro a ha
  simp [empty a] at ha

/-! ### What the operations do to the registers the invariant speaks of -/

/-- `Advance` is addition modulo PERIOD for a step of at most one period (R115). -/
theorem advance_toNat {c : Config} {p step : Byte} (hc : c.period ≤ 256) (hp : p.toNat < c.period)
    (hs : step.toNat ≤ c.period) : (advance c p step).toNat = (p.toNat + step.toNat) % c.period := by
  have hsum : (p.setWidth 9 + step.setWidth 9 : BitVec 9).toNat = p.toNat + step.toNat := by
    have := p.isLt
    have := step.isLt
    simp only [BitVec.toNat_add, BitVec.toNat_setWidth]
    omega
  unfold advance
  simp only [hsum]
  split
  · rename_i hge
    have hsub : (p.toNat + step.toNat) % c.period = p.toNat + step.toNat - c.period := by
      rw [Nat.mod_eq_sub_mod hge, Nat.mod_eq_of_lt (by omega)]
    rw [hsub]
    simp only [BitVec.toNat_setWidth, BitVec.toNat_sub, BitVec.toNat_ofNat, hsum]
    omega
  · rename_i hlt
    rw [Nat.mod_eq_of_lt (by omega)]
    simp only [BitVec.toNat_setWidth, hsum]
    omega

theorem stepOf_le_half {c : Config} (hc : configOk c = true) (tone : Bool) : (stepOf c tone).toNat ≤ c.half := by
  obtain ⟨-, -, -, -, -, -, -, hmark, -, hspace, -⟩ := (configOk_iff c).1 hc
  cases tone
  · exact hspace
  · exact hmark

/-- The mask of a binary frame moves down one bit, and from bit 0 back to bit 7 (R101). -/
theorem maskOneHot_next {m : Byte} (h : ∃ i < 8, m = 1#8 <<< i) :
    ∃ i < 8, (if m = 1 then 0x80 else m >>> 1 : Byte) = 1#8 <<< i := by
  obtain ⟨i, hi, rfl⟩ := h
  cases i with
  | zero => exact ⟨7, by decide, by decide⟩
  | succ i =>
    have hi : i < 7 := by omega
    refine ⟨i, by omega, ?_⟩
    interval_cases i <;> decide

/-! ### The invariant and the shared operations -/

namespace State.Inv

variable {s t : State}

theorem rttyAdvance (h : s.Inv) (hsch : s.schEn = true) (hx : s.txs = .rtty) : (rttyAdvance s).Inv := by
  rw [rttyAdvance_eq]
  have hpos := h.posInFrame
  obtain ⟨hw, hstop, -⟩ := (configOk_iff s.cfg).1 h.config
  cases hl : lastPosition s.cfg s.pos
  case true =>
    exact { h with
      enabledIffActive := by simp
      remPositive := by simp
      bufferHeldInFrame := by simp
      toggleRests := fun _ => rfl }
  case false =>
    have hne : s.pos.toNat ≠ s.cfg.rttyBits + s.cfg.rttyStop := by simpa [lastPosition] using hl
    exact { h with
      enabledIffActive := by simp [hsch, hx]
      posInFrame := by simp [BitVec.toNat_add]; omega
      toggleRests := fun _ => rfl }

theorem binaryAdvance (h : s.Inv) (hsch : s.schEn = true) (hx : s.txs = .binary) : (binaryAdvance s).Inv := by
  rw [binaryAdvance_eq]
  have hrem := h.remPositive hx
  have hmask := maskOneHot_next h.maskOneHot
  cases hl : lastBit s.rem
  case true =>
    exact { h with
      enabledIffActive := by simp
      remPositive := by simp
      maskOneHot := hmask
      bufferHeldInFrame := by simp
      toggleRests := fun _ => rfl }
  case false =>
    have hne : s.rem - 1 ≠ 0 := by simpa [lastBit] using hl
    exact { h with
      enabledIffActive := by simp [hsch, hx]
      remPositive := fun _ => by bv_omega
      maskOneHot := hmask
      toggleRests := fun _ => rfl }

theorem modulated (h : s.Inv) (b : Bool) : (modulated b s).Inv := by
  cases hm : s.mode with
  | fsk => rw [modulated_fsk hm]; exact { h with }
  | afsk => rw [modulated_afsk hm]; exact { h with }

theorem execSymFire (h : s.Inv) (ht : execSymFire s = .next t) : t.Inv := by
  rcases execSymFire_ends ht with
    rfl | ⟨hsch, b, rfl⟩ | ⟨b, k, b0, b1, b2, rfl⟩ | ⟨hsch, hx, b, rfl⟩ | ⟨hsch, hx, b, rfl⟩
  · exact h
  · exact { h with toggleRests := by simp [hsch] }
  · exact { h with }
  · exact (h.modulated b).rttyAdvance (by simpa) (by simpa)
  · exact (h.modulated b).binaryAdvance (by simpa) (by simpa)

theorem execSmpFire (h : s.Inv) (ht : execSmpFire s = .next t) : t.Inv := by
  rcases execSmpFire_ends ht with rfl | ⟨k, b0, b1, b2, rfl⟩ | ⟨v, rfl⟩
  · exact h
  · exact { h with }
  · have hphase := h.phaseInPeriod
    have hstep := stepOf_le_half h.config s.tone
    obtain ⟨-, -, hhalf, hmax, -⟩ := (configOk_iff s.cfg).1 h.config
    have hperiod : s.cfg.period = 2 * s.cfg.half := rfl
    have hnext := advance_toNat (by omega) hphase (step := stepOf s.cfg s.tone) (by omega)
    exact { h with phaseInPeriod := hnext ▸ Nat.mod_lt _ (by omega) }

theorem execReset (h : s.Inv) (ht : execReset s = .next t) : t.Inv := by
  cases ht
  exact inv_of_registers_reset rfl (by simpa using h.config) (by simpa using h.memoryCanonical)
    (by simpa using h.regionFits) (by simpa using h.regionWritten)

theorem sentOrHung {b0 b1 b2 : Byte} {whole : State} (h : s.Inv) (hw : whole.Inv)
    (ht : SentOrHung b0 b1 b2 s whole t) : t.Inv := by
  rcases ht with rfl | ⟨k, -, -, rfl⟩
  · exact hw
  · exact { h with }

theorem wrote (h : s.Inv) (ch : ChannelId) (v : Word16) : (wrote ch v s).Inv := { h with }

theorem poweredOff (h : s.Inv) : (poweredOff s).Inv := { h with }

/-- A status read that ends the host's windows has seen `REM = 0`, so no binary frame is active (R44, R36). -/
theorem execRdStatus (h : s.Inv) (ht : execRdStatus s = .next t) : t.Inv := by
  obtain ⟨-, rfl⟩ := exec_next (i := .rdStatus) ht
  refine { h with bufferHeldInFrame := fun hx => ?_ }
  have hrem : statusRem (statusWord s) ≠ 0 := by
    intro h0
    rw [statusRem_statusWord] at h0
    simpa [h0] using h.remPositive hx
  simpa only [if_neg hrem] using h.bufferHeldInFrame hx

/-- Every operation keeps the invariant. -/
theorem exec {i : Instr} (h : s.Inv) (ht : exec i s = .next t) : t.Inv := by
  have hn := exec_next ht
  cases i with
  | setFsk => obtain ⟨-, -, rfl⟩ := hn; exact { h with afskRuns := by simp }
  | setAfsk => obtain ⟨-, -, rfl⟩ := hn; exact { h with afskRuns := fun _ => rfl }
  | setBaud p => obtain ⟨-, -, rfl⟩ := hn; exact { h with }
  | rttySend b =>
    obtain ⟨-, -, rfl⟩ := hn
    exact { h with
      enabledIffActive := by simp [startRtty]
      remPositive := by simp [startRtty]
      posInFrame := by simp [startRtty]
      toggleRests := by simp [startRtty]
      bufferHeldInFrame := by simp [startRtty] }
  | binSend base n =>
    obtain ⟨-, -, hcount, rfl⟩ := hn
    exact { h with
      enabledIffActive := by simp [startBinary]
      remPositive := fun _ => Nat.one_le_iff_ne_zero.2 fun h0 => hcount (BitVec.eq_of_toNat_eq h0)
      maskOneHot := ⟨7, by decide, rfl⟩
      afskRuns := fun _ => rfl
      toggleRests := by simp [startBinary]
      bufferHeldInFrame := by simp [startBinary] }
  | dacWrite ch v => obtain ⟨-, -, -, -, hsent⟩ := hn; exact h.sentOrHung (h.wrote ch v) hsent
  | dacOff => obtain ⟨-, -, -, hsent⟩ := hn; exact h.sentOrHung h.poweredOff hsent
  | rdStatus => exact h.execRdStatus ht
  | symFire => exact h.execSymFire ht
  | smpFire => exact h.execSmpFire ht
  | reset => exact h.execReset ht
  | dacwr ch v => obtain ⟨-, -, -, -, hsent⟩ := hn; exact h.sentOrHung (h.wrote ch v) hsent
  | dacoff => obtain ⟨-, -, -, hsent⟩ := hn; exact h.sentOrHung h.poweredOff hsent

end State.Inv

/-! ### The host and the arrivals -/

theorem Memory.read_write_isSome {m : Memory} {b : Nat} (a : Nat) (x : Byte) (h : (Memory.read m b).isSome = true) :
    (Memory.read (Memory.write m a x) b).isSome = true := by
  by_cases hb : b = a
  · rw [hb, Memory.read_write_same]; rfl
  · rwa [Memory.read_write_other m x hb]

/-- A declared buffer is written (R43): each of its addresses is one of the bytes' places. -/
theorem Memory.read_writeBytes_isSome (m : Memory) {start : Word16} {bytes : List Byte} {a : Nat}
    (h : Region.contains { start := start, length := bytes.length } a = true) :
    (Memory.read (Memory.writeBytes m start.toNat bytes) a).isSome = true := by
  simp only [Region.contains, Bool.and_eq_true, decide_eq_true_eq] at h
  obtain ⟨k, rfl⟩ := Nat.exists_eq_add_of_le h.1
  have hk : k < bytes.length := by omega
  rw [Memory.read_writeBytes_inside m _ bytes hk, List.getElem?_eq_getElem hk]
  rfl

/-- A buffer is declared only where it fits, off every barred byte and while no transmission is active (R42, R44, R56). -/
theorem declareBuffer_eq_next {s t : State} {start : Word16} {bytes : List Byte} :
    declareBuffer start bytes s = .next t ↔
      start.toNat + bytes.length ≤ 65536 ∧ firstBarred s start.toNat bytes.length = none ∧ s.txs = .idle ∧
        t = { s with
          mem := Memory.writeBytes s.mem start.toNat bytes, region := { start := start, length := bytes.length } } := by
  unfold declareBuffer
  by_cases hfit : start.toNat + bytes.length ≤ 65536
  · cases hb : firstBarred s start.toNat bytes.length with
    | none => simp [hfit, whenIdle_eq_next, @eq_comm _ t]
    | some a => simp [hfit]
  · simp [hfit]

theorem hostPoke_eq_next {s t : State} {addr : Word16} {x : Byte} :
    hostPoke addr x s = .next t ↔
      ¬ s.Barred addr.toNat ∧ t = { s with mem := Memory.write s.mem addr.toNat x } := by
  rw [← hostBarred_iff]
  unfold hostPoke
  by_cases hb : hostBarred s addr.toNat = true <;> simp [hb, @eq_comm _ t]

theorem hostCall_eq_next {s t : State} {c : HostCall} :
    hostCall c s = .next t ↔ ∃ ops, hostExpansion s.cfg c = some ops ∧ t = { s with script := s.script ++ ops } := by
  unfold hostCall
  cases hostExpansion s.cfg c <;> simp [@eq_comm _ t]

theorem hostPoll_eq_next {ends : StWord → Bool} {rest : List HostOp} {s t : State} :
    hostPoll ends rest s = .next t ↔
      ∃ u, exec .rdStatus s = .next u ∧ t = if ends (statusWord s) then { u with script := rest } else u := by
  unfold hostPoll
  cases exec .rdStatus s <;> simp [@eq_comm _ t]

theorem whenConfigOk_eq_next {s t : State} {r : Result} :
    whenConfigOk s r = .next t ↔ configOk s.cfg = true ∧ r = .next t := by
  unfold whenConfigOk
  cases configOk s.cfg <;> simp

/-- A wire that no operation reads has a next state only as a line without a pulse, and it changes nothing (R68). -/
theorem eq_of_rejectWire_next {w : Wire} {s t : State} (h : rejectWire w s = .next t) : t = s := by
  cases w with
  | hc word => simp [rejectWire, whenLive_eq_next] at h
  | ev line level => cases h; rfl
  | df frame => simp [rejectWire, whenLive_eq_next] at h

namespace State.Inv

variable {s t : State}

theorem deliverWire {w : Wire} (h : s.Inv) (ht : deliverWire w s = .next t) : t.Inv := by
  unfold Machine.deliverWire at ht
  cases hd : decode w with
  | ok i => rw [hd] at ht; exact h.exec ht
  | error e => rw [hd] at ht; rw [eq_of_rejectWire_next ht]; exact h

theorem declareBuffer {start : Word16} {bytes : List Byte} (h : s.Inv) (ht : declareBuffer start bytes s = .next t) :
    t.Inv := by
  obtain ⟨hfit, -, hidle, rfl⟩ := declareBuffer_eq_next.1 ht
  exact { h with
    memoryCanonical := Memory.wf_writeBytes bytes h.memoryCanonical hfit
    regionFits := hfit
    bufferHeldInFrame := by simp [hidle]
    regionWritten := fun _ ha => Memory.read_writeBytes_isSome s.mem ha }

theorem hostPoke {addr : Word16} {x : Byte} (h : s.Inv) (ht : hostPoke addr x s = .next t) : t.Inv := by
  obtain ⟨-, rfl⟩ := hostPoke_eq_next.1 ht
  exact { h with
    memoryCanonical := Memory.wf_write x h.memoryCanonical addr.isLt
    regionWritten := fun b hb => Memory.read_write_isSome _ x (h.regionWritten b hb) }

theorem hostPoll {ends : StWord → Bool} {rest : List HostOp} (h : s.Inv) (ht : hostPoll ends rest s = .next t) :
    t.Inv := by
  obtain ⟨u, hu, rfl⟩ := hostPoll_eq_next.1 ht
  have hinv : u.Inv := h.exec hu
  split
  · exact { hinv with }
  · exact hinv

theorem hostTurn (h : s.Inv) (ht : hostTurn s = .next t) : t.Inv := by
  unfold Machine.hostTurn at ht
  split at ht
  · cases ht; exact h
  · rename_i i rest _
    have hpopped : State.Inv { s with script := rest } := { h with }
    exact hpopped.exec ht
  · exact h.hostPoll ht
  · exact h.hostPoll ht
  · cases ht; exact { h with }

/-- Every arrival keeps the invariant. -/
theorem deliver {a : Arrival} (h : s.Inv) (ht : deliver a s = .next t) : t.Inv := by
  cases a with
  | wire w => exact h.deliverWire ht
  | busAnswer completes => cases ht; exact { h with }
  | declareBuffer start bytes => exact h.declareBuffer (whenLive_eq_next.1 ht).2
  | poke addr x => exact h.hostPoke (whenLive_eq_next.1 ht).2
  | call c =>
    obtain ⟨ops, -, rfl⟩ := hostCall_eq_next.1 (whenLive_eq_next.1 ht).2
    exact { h with }
  | hostTurn => exact h.hostTurn (whenLive_eq_next.1 ht).2

end State.Inv

/-- Settles O9: with nothing arrived nothing changes, and what arrives keeps the invariant, case by case. -/
theorem stepKeepsInvariant : Obligations.StepKeepsInvariant := by
  intro s t h ht
  unfold step cycle at ht
  split at ht
  · obtain ⟨-, ht⟩ := whenConfigOk_eq_next.1 ht
    cases ht
    exact h
  · rename_i a rest _
    obtain ⟨-, ht⟩ := whenConfigOk_eq_next.1 ht
    have htaken : State.Inv { s with inbox := rest } := { h with }
    exact htaken.deliver ht

end Sys2Proof.Machine
end

section
/-! The next arrival as a step (spec/60_exceptions.md R154; log 1). -/

namespace Sys2Proof.Machine

theorem whenConfigOk_of_configOk {s : State} (h : configOk s.cfg = true) (r : Result) : whenConfigOk s r = r := by
  simp [whenConfigOk, h]

theorem step_of_arrival {s : State} {a : Arrival} {rest : List Arrival} (hc : configOk s.cfg = true)
    (ha : s.inbox = a :: rest) : step s = deliver a { s with inbox := rest } := by
  simp only [step, cycle, ha, whenConfigOk_of_configOk hc]

theorem deliverWire_of_decode {w : Wire} {i : Instr} (h : decode w = .ok i) (s : State) :
    deliverWire w s = exec i s := by
  simp only [deliverWire, h]

/-- Settles O5: the step delivers the arrival, and a wire is delivered as the operation that the decoder reads. -/
theorem stepRunsDecoded : Obligations.StepRunsDecoded := by
  intro s w rest i hc hw hd
  exact (step_of_arrival hc hw).trans (deliverWire_of_decode hd _)

end Sys2Proof.Machine
end

section
/-! The host's writes to the payload buffer space (spec/20_memory.md R42 to R44, R56): where each is V3, and what it
leaves where it completes. -/

namespace Sys2Proof.Machine

theorem hostPoke_of_barred {s : State} {addr : Word16} (h : s.Barred addr.toNat) (x : Byte) :
    hostPoke addr x s = .fault (.bufferTouched addr) :=
  if_pos (hostBarred_iff.2 h)

/-- Settles O47: a poke is V3 exactly on a barred byte, and elsewhere it is one write of memory. -/
theorem hostWriteTouchesOneByte : Obligations.HostWriteTouchesOneByte := by
  intro s addr x hl
  simp only [deliver, whenLive_of_live hl]
  exact ⟨fun hb => hostPoke_of_barred hb x, fun hb =>
    ⟨Memory.write s.mem addr.toNat x, hostPoke_eq_next.2 ⟨hb, rfl⟩, Memory.read_write_same s.mem addr.toNat x,
      fun a ha => Memory.read_write_other s.mem x ha⟩⟩

/-- The V3 of a declaration names the first barred byte among its bytes, which is an address of the space (R42). -/
theorem declareBuffer_of_barred {s : State} {start : Word16} {bytes : List Byte}
    (hfit : start.toNat + bytes.length ≤ 65536) (hb : ∃ k < bytes.length, s.Barred (start.toNat + k)) :
    ∃ a : Word16, (∃ k < bytes.length, a.toNat = start.toNat + k) ∧ s.Barred a.toNat ∧
      declareBuffer start bytes s = .fault (.bufferTouched a) := by
  cases hf : firstBarred s start.toNat bytes.length with
  | none =>
    obtain ⟨k, hk, hbk⟩ := hb
    exact absurd hbk (firstBarred_eq_none.1 hf k hk)
  | some a =>
    obtain ⟨hba, k, hk, rfl⟩ := firstBarred_eq_some hf
    have haddr : (BitVec.ofNat 16 (start.toNat + k)).toNat = start.toNat + k :=
      Nat.mod_eq_of_lt (by omega)
    exact ⟨BitVec.ofNat 16 (start.toNat + k), ⟨k, hk, haddr⟩, by rwa [haddr], by simp [declareBuffer, hfit, hf]⟩

/-- During a transmission a declaration is V3 whatever its bytes: at a barred one of them, or at its start
(R56; log 6). -/
theorem declareBuffer_of_busy {s : State} {start : Word16} {bytes : List Byte}
    (hfit : start.toNat + bytes.length ≤ 65536) (hx : s.txs ≠ .idle) :
    ∃ a, declareBuffer start bytes s = .fault (.bufferTouched a) := by
  cases hf : firstBarred s start.toNat bytes.length with
  | none => exact ⟨start, by simp [declareBuffer, hfit, hf, whenIdle_of_busy hx]⟩
  | some a => exact ⟨BitVec.ofNat 16 a, by simp [declareBuffer, hfit, hf]⟩

/-- Settles O48: the declaration completes on an idle block over bytes none of which is barred, and is V3 otherwise. -/
theorem declaredBufferHoldsBytes : Obligations.DeclaredBufferHoldsBytes := by
  intro s start bytes hl hfit
  simp only [deliver, whenLive_of_live hl]
  refine ⟨fun hidle hfree => ?_, fun hbarred => ?_, declareBuffer_of_busy hfit⟩
  · refine ⟨Memory.writeBytes s.mem start.toNat bytes,
      declareBuffer_eq_next.2 ⟨hfit, firstBarred_eq_none.2 hfree, hidle, rfl⟩,
      fun k hk => Memory.read_writeBytes_inside s.mem start.toNat bytes hk, ?_⟩
    rintro a (hbelow | habove)
    · exact Memory.read_writeBytes_below s.mem start.toNat bytes hbelow
    · exact Memory.read_writeBytes_above s.mem start.toNat bytes habove
  · obtain ⟨a, -, hv3⟩ := declareBuffer_of_barred hfit hbarred
    exact ⟨a, hv3⟩

end Sys2Proof.Machine
end

section
/-! What the operations leave of the other agents' data (spec/20_memory.md R42 to R44): the payload buffer and its
windows, the parameters, what has yet to arrive, the host. -/

namespace Sys2Proof.Machine

/-- Two states alike in what stands outside the block, its bus and its trace. -/
structure SameSurroundings (s t : State) : Prop where
  mem : t.mem = s.mem
  region : t.region = s.region
  bufferHeld : t.bufferHeld = s.bufferHeld
  cfg : t.cfg = s.cfg
  inbox : t.inbox = s.inbox
  hostKicks : t.hostKicks = s.hostKicks
  script : t.script = s.script
  answers : t.answers = s.answers

namespace SameSurroundings

variable {s t : State}

theorem hungFrame (s : State) (k : Nat) (b0 b1 b2 : Byte) : SameSurroundings s (hungFrame k b0 b1 b2 s) := by
  constructor <;> rfl

theorem execSymFire (h : execSymFire s = .next t) : SameSurroundings s t := by
  rcases execSymFire_ends h with
    rfl | ⟨-, b, rfl⟩ | ⟨b, k, b0, b1, b2, rfl⟩ | ⟨-, -, b, rfl⟩ | ⟨-, -, b, rfl⟩
  · constructor <;> rfl
  · constructor <;> rfl
  · constructor <;> rfl
  · rw [rttyAdvance_eq]; constructor <;> simp
  · rw [binaryAdvance_eq]; constructor <;> simp

theorem execSmpFire (h : execSmpFire s = .next t) : SameSurroundings s t := by
  rcases execSmpFire_ends h with rfl | ⟨k, b0, b1, b2, rfl⟩ | ⟨v, rfl⟩
  · constructor <;> rfl
  · exact hungFrame s k b0 b1 b2
  · constructor <;> rfl

theorem sentOrHung {b0 b1 b2 : Byte} {whole : State} (hw : SameSurroundings s whole)
    (h : SentOrHung b0 b1 b2 s whole t) : SameSurroundings s t := by
  rcases h with rfl | ⟨k, -, -, rfl⟩
  · exact hw
  · exact hungFrame s k b0 b1 b2

theorem wrote (s : State) (ch : ChannelId) (v : Word16) : SameSurroundings s (wrote ch v s) := by
  constructor <;> rfl

theorem poweredOff (s : State) : SameSurroundings s (poweredOff s) := by
  constructor <;> rfl

end SameSurroundings

/-- The three operations with an effect on the surroundings: a `BIN_SEND` opens windows, a status read answers and may
close them, and a reset closes them and drops the host's script (log 19, log 20). -/
theorem exec_surroundings {i : Instr} {s t : State} (h : exec i s = .next t) :
    (SameSurroundings s t ∧ (∀ base n, i ≠ .binSend base n) ∧ i ≠ .rdStatus ∧ i ≠ .reset) ∨
    (∃ base n, i = .binSend base n ∧ t = startBinary base n s) ∨
    (i = .rdStatus ∧ t = { s with
      answers := s.answers ++ [statusWord s], bufferHeld := if s.rem = 0 then [] else s.bufferHeld }) ∨
    (i = .reset ∧ t = { resetRegisters (endStall s) with script := [], bufferHeld := [] }) := by
  have hn := exec_next h
  cases i with
  | binSend base n => obtain ⟨-, -, -, rfl⟩ := hn; exact .inr (.inl ⟨base, n, rfl, rfl⟩)
  | rdStatus =>
    obtain ⟨-, rfl⟩ := hn
    exact .inr (.inr (.inl ⟨rfl, by rw [statusRem_statusWord]⟩))
  | reset => exact .inr (.inr (.inr ⟨rfl, hn⟩))
  | setFsk => obtain ⟨-, -, rfl⟩ := hn; exact .inl ⟨by constructor <;> rfl, by simp⟩
  | setAfsk => obtain ⟨-, -, rfl⟩ := hn; exact .inl ⟨by constructor <;> rfl, by simp⟩
  | setBaud p => obtain ⟨-, -, rfl⟩ := hn; exact .inl ⟨by constructor <;> rfl, by simp⟩
  | rttySend b => obtain ⟨-, -, rfl⟩ := hn; exact .inl ⟨by constructor <;> rfl, by simp⟩
  | symFire => exact .inl ⟨.execSymFire hn, by simp⟩
  | smpFire => exact .inl ⟨.execSmpFire hn, by simp⟩
  | dacWrite ch v => obtain ⟨-, -, -, -, hsent⟩ := hn; exact .inl ⟨.sentOrHung (.wrote s ch v) hsent, by simp⟩
  | dacwr ch v => obtain ⟨-, -, -, -, hsent⟩ := hn; exact .inl ⟨.sentOrHung (.wrote s ch v) hsent, by simp⟩
  | dacOff => obtain ⟨-, -, -, hsent⟩ := hn; exact .inl ⟨.sentOrHung (.poweredOff s) hsent, by simp⟩
  | dacoff => obtain ⟨-, -, -, hsent⟩ := hn; exact .inl ⟨.sentOrHung (.poweredOff s) hsent, by simp⟩

/-- Settles O43: memory, region, parameters and inbox are no operation's to write, and the three operations with an
effect on the host's data have no other. -/
theorem bufferReadOnlyToBlock : Obligations.BufferReadOnlyToBlock := by
  intro i s t h
  rcases exec_surroundings h with ⟨hs, -⟩ | ⟨base, n, rfl, rfl⟩ | ⟨rfl, rfl⟩ | ⟨rfl, rfl⟩
  · exact ⟨fun a => by rw [hs.mem], hs.region, hs.cfg, hs.inbox, hs.hostKicks, fun _ => hs.script, fun _ => hs.answers⟩
  · simp [startBinary]
  · simp
  · simp

/-- Settles O56: the windows of a `BIN_SEND` are the declared buffer and the frame's bytes, a status read that sees
`REM = 0` and a reset close all, and nothing else touches them. -/
theorem bufferWindow : Obligations.BufferWindow := by
  intro i s t h
  rcases exec_surroundings h with ⟨hs, hbin, hread, hreset⟩ | ⟨base, n, rfl, rfl⟩ | ⟨rfl, rfl⟩ | ⟨rfl, rfl⟩
  · rw [hs.bufferHeld]
    refine ⟨fun base n hi => absurd hi (hbin base n), fun r hr hnew => absurd hr hnew,
      fun r hr hgone => absurd hr hgone, ?_⟩
    rintro (hi | ⟨hi, -⟩)
    · exact absurd hi hreset
    · exact absurd hi hread
  · have hheld : (startBinary base n s).bufferHeld = s.region :: frameRegion base n :: s.bufferHeld := rfl
    rw [hheld]
    refine ⟨?_, ?_, by simp +contextual, by simp⟩
    · rintro base' n' ⟨rfl, rfl⟩
      exact ⟨by simp, fun k hk => ⟨frameRegion base n, by simp, frameRegion_contains hk⟩⟩
    · intro r hr hnew
      simp only [List.mem_cons, hnew, or_false] at hr
      exact ⟨base, n, rfl, hr⟩
  · by_cases hrem : s.rem = 0 <;> simp +contextual [hrem]
  · simp

end Sys2Proof.Machine
end

section
/-! The DAC device behind whole frames (spec/20_memory.md R47, R48; D39). -/

namespace Sys2Proof.Machine

theorem DacDevice.frame_coarse {d : DacDevice} (h : d.cutFrame = false) (c : Config) (n : Nat) (b1 b2 : Byte) :
    d.frame c n (writeCommandByte c.chCoarse) b1 b2 = { d with coarse := some (b1 ++ b2) } := by
  simp [DacDevice.frame, h]

theorem DacDevice.frame_fine {d : DacDevice} {c : Config} (h : d.cutFrame = false) (hc : c.chCoarse ≠ c.chFine)
    (n : Nat) (b1 b2 : Byte) : d.frame c n (writeCommandByte c.chFine) b1 b2 = { d with fine := some (b1 ++ b2) } := by
  have hne : writeCommandByte c.chFine ≠ writeCommandByte c.chCoarse := fun he => hc (writeCommandByte_injective he).symm
  simp [DacDevice.frame, h, hne]

/-- The power-off command byte is no channel's write command (R71, R72). -/
theorem writeCommandByte_ne_off (ch : ChannelId) : writeCommandByte ch ≠ 0x4F := by
  revert ch; decide

theorem DacDevice.frame_off {d : DacDevice} (h : d.cutFrame = false) (c : Config) (n : Nat) :
    d.frame c n 0x4F 0x00 0x00 = { d with powered := false } := by
  have hcoarse := (writeCommandByte_ne_off c.chCoarse).symm
  have hfine := (writeCommandByte_ne_off c.chFine).symm
  simp only [DacDevice.frame, h, if_neg hcoarse, if_neg hfine, Bool.false_eq_true, if_false, and_self, if_true]

theorem SentOrHung.eq_whole {s whole t : State} {b0 b1 b2 : Byte} (h : BusReady s)
    (hsent : SentOrHung b0 b1 b2 s whole t) : t = whole := by
  rcases hsent with rfl | ⟨k, hk, hb, -⟩
  · rfl
  · exact absurd (h.2 k hb) (by omega)

theorem wrote_dac (ch : ChannelId) (v : Word16) (s : State) :
    (wrote ch v s).dac = s.dac.frame s.cfg s.freeCount (writeCommandByte ch) (hiByte v) (loByte v) := rfl

theorem poweredOff_dac (s : State) : (poweredOff s).dac = s.dac.frame s.cfg s.freeCount 0x4F 0x00 0x00 := rfl

/-- Settles O32: on a ready bus the frame is whole, its command byte selects what the device changes, and a channel's
word is its two bytes. -/
theorem deviceHoldsWord : Obligations.DeviceHoldsWord := by
  intro s t v hc hb hd
  obtain ⟨-, -, -, -, -, -, -, -, -, -, -, hch, -⟩ := (configOk_iff s.cfg).1 hc
  refine ⟨fun h => ?_, fun h => ?_, fun h => ?_⟩
  · obtain ⟨-, -, -, -, hsent⟩ := exec_next h
    rw [hsent.eq_whole hb, wrote_dac, DacDevice.frame_coarse hd, hiByte_append_loByte]
  · obtain ⟨-, -, -, -, hsent⟩ := exec_next h
    rw [hsent.eq_whole hb, wrote_dac, DacDevice.frame_fine hd hch, hiByte_append_loByte]
  · obtain ⟨-, -, -, hsent⟩ := exec_next h
    rw [hsent.eq_whole hb, poweredOff_dac, DacDevice.frame_off hd]

end Sys2Proof.Machine
end

section
/-! Who may put a frame on the bus (spec/41_symbol_scheduler.md, spec/43_dac_writer.md R62, R129). -/

namespace Sys2Proof.Machine

theorem busEvents_append (xs ys : List Event) : busEvents (xs ++ ys) = busEvents xs ++ busEvents ys :=
  List.filter_append xs ys

/-- In AFSK mode a tick sends its symbol and no frame (R103). -/
theorem busEvents_modulated_afsk {s : State} (h : s.mode = .afsk) (b : Bool) :
    busEvents (modulated b s).trace = busEvents s.trace := by
  rw [modulated_trace, h, busEvents_append]
  simp [symbolEvents, busEvents]

theorem busEvents_rttyAdvance (s : State) : busEvents (rttyAdvance s).trace = busEvents s.trace := by
  rw [rttyAdvance_eq]

/-- A tick's watchdog strobe is no bus event (R10, R106). -/
theorem busEvents_binaryAdvance (s : State) : busEvents (binaryAdvance s).trace = busEvents s.trace := by
  rw [binaryAdvance_eq]
  by_cases hm : s.mask = 1
  · simp [hm, busEvents]
  · simp only [hm, if_false]

theorem busEvents_execSymFire_afsk {s t : State} (hm : s.mode = .afsk) (h : execSymFire s = .next t) :
    busEvents t.trace = busEvents s.trace := by
  rcases execSymFire_cases h with
    ⟨rfl, -⟩ | ⟨-, -, ⟨-, rfl⟩ | ⟨-, -, rfl⟩ | ⟨-, -, rfl⟩ | ⟨-, -, -, -, x, -, rfl⟩⟩
  · rfl
  · rfl
  · rfl
  · rw [modulateThen_afsk hm, busEvents_rttyAdvance, busEvents_modulated_afsk hm]
  · rw [modulateThen_afsk hm, busEvents_binaryAdvance, busEvents_modulated_afsk hm]

theorem execSmpFire_fsk {s t : State} (hm : s.mode = .fsk) (h : execSmpFire s = .next t) : t = s := by
  rcases execSmpFire_cases h with ⟨rfl, -⟩ | ⟨-, hafsk, -⟩
  · rfl
  · simp [hm] at hafsk

theorem execSymFire_masked {s t : State} (hs : s.schEn = false) (h : execSymFire s = .next t) : t = s := by
  rcases execSymFire_cases h with ⟨rfl, -⟩ | ⟨-, hon, -⟩
  · rfl
  · simp [hs] at hon

/-- An operation of the writer or the host that sends a frame, other than a fire (R89, R90, R124, R126; log 4). -/
def SendsFrame (i : Instr) : Prop :=
  (∃ ch v, i = .dacWrite ch v ∨ i = .dacwr ch v) ∨ i = .dacOff ∨ i = .dacoff

theorem SendsFrame.bus_free {i : Instr} {s t : State} (hi : SendsFrame i) (h : exec i s = .next t) :
    s.txs = .idle ∧ ¬ (s.mode = .afsk ∧ s.synEn = true) := by
  rcases hi with ⟨ch, v, rfl | rfl⟩ | rfl | rfl
  · obtain ⟨-, hidle, hfree, -⟩ := exec_next h; exact ⟨hidle, hfree⟩
  · obtain ⟨-, hidle, hfree, -⟩ := exec_next h; exact ⟨hidle, hfree⟩
  · obtain ⟨-, hidle, hfree, -⟩ := exec_next h; exact ⟨hidle, hfree⟩
  · obtain ⟨-, hidle, hfree, -⟩ := exec_next h; exact ⟨hidle, hfree⟩

/-- Settles O38: the synthesizer sends in AFSK mode alone and the scheduler in FSK mode alone, the invariant masks the
scheduler of an idle block and runs the synthesizer of AFSK mode, and the others need a free bus. -/
theorem oneSourceOfFrames : Obligations.OneSourceOfFrames := by
  intro s t hinv hl
  refine ⟨fun hm h => by rw [execSmpFire_fsk hm h], busEvents_execSymFire_afsk, fun hidle h => ?_, fun hbusy => ?_⟩
  · have hmasked : s.schEn = false := by
      have := hinv.enabledIffActive
      simpa [hidle] using this
    exact execSymFire_masked hmasked h
  · have blocked : ∀ i, SendsFrame i → exec i s ≠ .next t := by
      intro i hi h
      obtain ⟨hidle, hfree⟩ := hi.bus_free h
      rcases hbusy with hx | hm
      · exact hx hidle
      · exact hfree ⟨hm, hinv.afskRuns hm⟩
    exact fun ch v => ⟨blocked _ (.inl ⟨ch, v, .inl rfl⟩), blocked _ (.inr (.inl rfl)),
      blocked _ (.inl ⟨ch, v, .inr rfl⟩), blocked _ (.inr (.inr rfl))⟩

end Sys2Proof.Machine
end

section
/-! What a fire does where it acts (spec/41_symbol_scheduler.md R99 to R103; spec/42_tone_synth.md R113), and the two
fires in either order (R57, R154). -/

namespace Sys2Proof.Machine

theorem busReady_of_none {s : State} (hl : s.stall = none) (hb : s.bus = none) : BusReady s := ⟨hl, by simp [hb]⟩

section
variable {s : State}

theorem execSymFire_of_schEn_false (h : s.schEn = false) : execSymFire s = .next s := by
  simp [execSymFire, h]

theorem execSymFire_of_tog_false (hl : s.stall = none) (hs : s.schEn = true) (ht : s.tog = false) :
    execSymFire s = .next { s with tog := true } := by
  simp [execSymFire, hl, hs, ht]

theorem execSymFire_of_tog (hl : s.stall = none) (hs : s.schEn = true) (ht : s.tog = true) :
    execSymFire s = activeTick s := by
  simp [execSymFire, hl, hs, ht]

theorem activeTick_idle (hx : s.txs = .idle) : activeTick s = .next { s with tog := false } := by
  simp only [activeTick, hx]

theorem activeTick_rtty (hx : s.txs = .rtty) (hb : s.mode = .fsk → BusReady s) :
    activeTick s = .next (rttyAdvance (modulated (rttyBit s.cfg s.rbyte s.pos) s)) := by
  simp [activeTick, hx, rttyArm, modulateThen_ready hb]

theorem activeTick_binary {x : Byte} (hx : s.txs = .binary) (hb : s.mode = .fsk → BusReady s)
    (hr : s.region.contains s.ptr.toNat = true) (hm : Memory.read s.mem s.ptr.toNat = some x)
    (hp : ¬ (s.mask = 1 ∧ s.ptr = 0xFFFF)) :
    activeTick s = .next (binaryAdvance (modulated (maskedBit x s.mask) s)) := by
  have hp' : ¬ (s.mask = 0x01 ∧ s.ptr = 0xFFFF) := hp
  simp only [activeTick, hx, binaryArm, hr, hm, if_true, if_neg hp', modulateThen_ready hb]

end

/-- A phase inside the period has its ROM entry (R45, R116). -/
theorem magnitude_isSome {c : Config} {p : Byte} (hc : configOk c = true) (hp : p.toNat < c.period) :
    ∃ mag, magnitude c p = some mag := by
  obtain ⟨-, -, -, -, hrom, -⟩ := (configOk_iff c).1 hc
  have entry : ∀ i < c.half, ∃ x, rom c i = some x := fun i hi => ⟨_, List.getElem?_eq_getElem (by omega)⟩
  unfold magnitude
  split
  · rename_i hlow
    exact entry _ hlow
  · obtain ⟨x, hx⟩ := entry (p.toNat - c.half) (by unfold Config.period at hp; omega)
    exact ⟨c.maxMag - x, by rw [hx]; rfl⟩

/-- The advanced phase of a state that meets the invariant is inside the period (R115, R36). -/
theorem State.Inv.advance_lt_period {s : State} (h : s.Inv) :
    (advance s.cfg s.phase (stepOf s.cfg s.tone)).toNat < s.cfg.period := by
  have hphase := h.phaseInPeriod
  have hstep := stepOf_le_half h.config s.tone
  obtain ⟨-, -, hhalf, hmax, -⟩ := (configOk_iff s.cfg).1 h.config
  have hperiod : s.cfg.period = 2 * s.cfg.half := rfl
  rw [advance_toNat (by omega) hphase (by omega)]
  exact Nat.mod_lt _ (by omega)

/-- A state after a whole sample fire that wrote the word `v` (R113). -/
def sampled (v : Word16) (s : State) : State :=
  { wrote s.cfg.chFine v s with phase := advance s.cfg s.phase (stepOf s.cfg s.tone) }

/-- In AFSK mode, on a ready bus, a sample fire works. -/
theorem State.Inv.execSmpFire_ready {s : State} (h : s.Inv) (hb : BusReady s) (hm : s.mode = .afsk) :
    ∃ v, Machine.execSmpFire s = .next (sampled v s) := by
  have hrun : synthRunning s = true := synthRunning_iff.2 ⟨hm, h.afskRuns hm⟩
  obtain ⟨mag, hmag⟩ := magnitude_isSome h.config h.advance_lt_period
  refine ⟨sampleWord mag, ?_⟩
  simp only [Machine.execSmpFire, hb.1, hrun, sampleTick, hmag, dacWriteThen_ready hb, sampled]
  rfl

/-- All registers but `PHASE` and `DACLAST`, the two a sample fire writes. -/
def State.symbolRegisters (s : State) : Registers := { s.registers with phase := 0, daclast := 0 }

@[simp] theorem symbolRegisters_sampled (v : Word16) (s : State) :
    (sampled v s).symbolRegisters = s.symbolRegisters := rfl

theorem symbolRegisters_rttyTick {s : State} (hm : s.mode = .afsk) (v : Word16) (b : Bool) :
    (rttyAdvance (modulated b (sampled v s))).symbolRegisters = (rttyAdvance (modulated b s)).symbolRegisters := by
  have hm' : (sampled v s).mode = .afsk := hm
  rw [modulated_afsk hm, modulated_afsk hm', rttyAdvance_eq, rttyAdvance_eq]
  rfl

theorem symbolRegisters_binaryTick {s : State} (hm : s.mode = .afsk) (v : Word16) (b : Bool) :
    (binaryAdvance (modulated b (sampled v s))).symbolRegisters = (binaryAdvance (modulated b s)).symbolRegisters := by
  have hm' : (sampled v s).mode = .afsk := hm
  rw [modulated_afsk hm, modulated_afsk hm', binaryAdvance_eq, binaryAdvance_eq]
  rfl

/-- In AFSK mode a symbol fire after a sample does to the symbol registers what it does before it. -/
theorem execSymFire_sampled {s u : State} (hl : s.stall = none) (hm : s.mode = .afsk) (v : Word16)
    (h : execSymFire s = .next u) :
    ∃ q, execSymFire (sampled v s) = .next q ∧ q.symbolRegisters = u.symbolRegisters := by
  have hbus : (sampled v s).mode = .fsk → BusReady (sampled v s) := fun hf => by
    have hf : s.mode = .fsk := hf
    simp [hm] at hf
  have tick (ht : s.tog = true) (hs : s.schEn = true) : execSymFire (sampled v s) = activeTick (sampled v s) :=
    execSymFire_of_tog hl hs ht
  rcases execSymFire_cases h with ⟨rfl, hoff⟩ | ⟨-, hs,
    ⟨ht, rfl⟩ | ⟨ht, hx, rfl⟩ | ⟨ht, hx, rfl⟩ | ⟨ht, hx, hr, hp, x, hread, rfl⟩⟩
  · have hs : u.schEn = false := by simpa [hl] using hoff
    exact ⟨_, execSymFire_of_schEn_false hs, rfl⟩
  · exact ⟨_, execSymFire_of_tog_false hl hs ht, rfl⟩
  · exact ⟨_, (tick ht hs).trans (activeTick_idle hx), rfl⟩
  · refine ⟨_, (tick ht hs).trans (activeTick_rtty hx hbus), ?_⟩
    rw [modulateThen_afsk hm]
    exact symbolRegisters_rttyTick hm v _
  · refine ⟨_, (tick ht hs).trans (activeTick_binary hx hbus hr hread hp), ?_⟩
    rw [modulateThen_afsk hm]
    exact symbolRegisters_binaryTick hm v _

theorem modulateThen_afsk_bus {s : State} (hm : s.mode = .afsk) (b : Bool) (after : State → State)
    (hafter : ∀ t, (after t).bus = t.bus ∧ (after t).stall = t.stall) :
    (modulateThen b s after).bus = s.bus ∧ (modulateThen b s after).stall = s.stall := by
  rw [modulateThen_afsk hm, modulated_afsk hm, (hafter _).1, (hafter _).2]
  exact ⟨rfl, rfl⟩

/-- In AFSK mode a symbol fire does not use the bus (R103). -/
theorem execSymFire_afsk_bus {s u : State} (hm : s.mode = .afsk) (h : execSymFire s = .next u) :
    u.bus = s.bus ∧ u.stall = s.stall := by
  rcases execSymFire_cases h with
    ⟨rfl, -⟩ | ⟨-, -, ⟨-, rfl⟩ | ⟨-, -, rfl⟩ | ⟨-, -, rfl⟩ | ⟨-, -, -, -, x, -, rfl⟩⟩
  · exact ⟨rfl, rfl⟩
  · exact ⟨rfl, rfl⟩
  · exact ⟨rfl, rfl⟩
  · exact modulateThen_afsk_bus hm _ _ fun t => by rw [rttyAdvance_eq]; exact ⟨rfl, rfl⟩
  · exact modulateThen_afsk_bus hm _ _ fun t => by rw [binaryAdvance_eq]; exact ⟨rfl, rfl⟩

/-- Settles O44: the sample fire works before and after the symbol, with the tone it finds, and the symbol fire does not
see the registers that a sample writes. -/
theorem firesInEitherOrder : Obligations.FiresInEitherOrder := by
  intro s u v hinv hl hb hm hu hv
  have hready : BusReady s := busReady_of_none hl hb
  obtain ⟨w, hw⟩ := hinv.execSmpFire_ready hready hm
  obtain rfl : sampled w s = v := by simpa using hw.symm.trans hv
  obtain ⟨q, hq, hregs⟩ := execSymFire_sampled hl hm w hu
  obtain ⟨-, hphase, hmode, -⟩ := execSymFire_frame hu
  obtain ⟨hubus, hustall⟩ := execSymFire_afsk_bus hm hu
  have hcfg : u.cfg = s.cfg := (SameSurroundings.execSymFire hu).cfg
  obtain ⟨w', hp⟩ := (hinv.execSymFire hu).execSmpFire_ready
    (busReady_of_none (hustall.trans hl) (hubus.trans hb)) (hmode.trans hm)
  refine ⟨sampled w' u, q, hp, hq, ?_, (execSymFire_frame hq).2.1, hregs.symm⟩
  simp only [sampled, hphase, hcfg, stepOf]

end Sys2Proof.Machine
end

section
/-! A whole binary frame (spec/41_symbol_scheduler.md R101, R106, R110, R111): what the block is after each of its
symbols, and the induction over them. -/

namespace Sys2Proof.Machine

/-! ### Consecutive fires -/

theorem symFires_add {m : Nat} {s t : State} (h : symFires m s = .next t) (n : Nat) :
    symFires (m + n) s = symFires n t := by
  induction m generalizing s with
  | zero => cases h; rw [Nat.zero_add]
  | succ m ih =>
    rw [Nat.succ_add]
    simp only [symFires] at h ⊢
    cases hf : exec .symFire s with
    | next u => simp only [hf] at h ⊢; exact ih h
    | fault f => simp [hf] at h
    | refused r => simp [hf] at h

theorem symFires_one (s : State) : symFires 1 s = exec .symFire s := by
  simp only [symFires]
  cases exec .symFire s <;> rfl

theorem symFires_succ {m : Nat} {s t : State} (h : symFires m s = .next t) :
    symFires (m + 1) s = exec .symFire t := by
  rw [symFires_add h, symFires_one]

/-! ### The mask of symbol `k` -/

/-- Bit `7 - (k mod 8)` alone, the mask of a binary frame's symbol `k` (R49). -/
def symbolMask (k : Nat) : Byte := 0x80#8 >>> (k % 8)

theorem symbolMask_eq_twoPow (k : Nat) : symbolMask k = BitVec.twoPow 8 (7 - k % 8) := by
  have shifted : ∀ j < 8, 0x80#8 >>> j = BitVec.twoPow 8 (7 - j) := by decide
  exact shifted _ (Nat.mod_lt k (by decide))

theorem symbolMask_eq_one_iff (k : Nat) : symbolMask k = 1 ↔ k % 8 = 7 := by
  have last : ∀ j < 8, 0x80#8 >>> j = 1 ↔ j = 7 := by decide
  exact last _ (Nat.mod_lt k (by decide))

theorem symbolMask_succ (k : Nat) :
    symbolMask (k + 1) = if symbolMask k = 1 then 0x80#8 else symbolMask k >>> 1 := by
  have next : ∀ j < 8, 0x80#8 >>> ((j + 1) % 8) = if 0x80#8 >>> j = 1 then 0x80#8 else 0x80#8 >>> j >>> 1 := by decide
  rw [symbolMask, ← Nat.mod_add_mod]
  exact next _ (Nat.mod_lt k (by decide))

/-- The masked byte is not 0 exactly when the byte has the mask's bit (R101). -/
theorem maskedBit_symbolMask (x : Byte) (k : Nat) : maskedBit x (symbolMask k) = x.getLsbD (7 - k % 8) := by
  have hne : BitVec.twoPow 8 (7 - k % 8) ≠ 0 := by
    have nonzero : ∀ i < 8, BitVec.twoPow 8 i ≠ 0 := by decide
    exact nonzero _ (by omega)
  rw [maskedBit, symbolMask_eq_twoPow, BitVec.and_twoPow]
  cases x.getLsbD (7 - k % 8)
  · rfl
  · exact bne_iff_ne.2 hne

/-! ### The block after `k` symbols -/

/-- The block after the first `k` symbols of the binary frame of `n` bits from `base`, started in `s` (R101, R105,
R110); `tog` says whether its next fire is the active one (R99). -/
structure SentSymbols (s : State) (base n : Word16) (k : Nat) (tog : Bool) (v : State) : Prop where
  stall : v.stall = none
  bus : v.bus = none
  cfg : v.cfg = s.cfg
  mode : v.mode = s.mode
  mem : v.mem = s.mem
  region : v.region = s.region
  tog : v.tog = tog
  schEn : v.schEn = decide (k < n.toNat)
  txs : v.txs = if k < n.toNat then .binary else .idle
  done : v.done = decide (n.toNat ≤ k)
  rem : v.rem.toNat = n.toNat - k
  ptr : v.ptr.toNat = base.toNat + k / 8
  mask : v.mask = symbolMask k
  trace : v.trace = s.trace ++ (List.range k).flatMap (binaryEvents s.cfg s.mode s.mem base.toNat)

/-- `BIN_SEND` leaves the block before the frame's first symbol (R88). -/
theorem sentSymbols_startBinary {s : State} (base : Word16) {n : Word16} (hl : s.stall = none) (hb : s.bus = none)
    (htog : s.tog = false) (hn : 0 < n.toNat) : SentSymbols s base n 0 false (startBinary base n s) := by
  constructor <;> simp [startBinary, symbolMask, hl, hb, htog, hn, Nat.ne_of_gt hn]

theorem modulated_bus_none {s : State} (h : s.bus = none) (b : Bool) : (modulated b s).bus = none := by
  cases hm : s.mode with
  | fsk => rw [modulated_fsk hm]; simp [wrote, h]
  | afsk => rw [modulated_afsk hm]; simp [h]

namespace SentSymbols

variable {s v : State} {base n : Word16} {k : Nat}

/-- The first fire of a symbol only turns the toggle (R99). -/
theorem toggle (h : SentSymbols s base n k false v) (hk : k < n.toNat) :
    execSymFire v = .next { v with tog := true } ∧ SentSymbols s base n k true { v with tog := true } :=
  ⟨execSymFire_of_tog_false h.stall (by simp [h.schEn, hk]) h.tog, { h with tog := rfl }⟩

/-- The pointer does not wrap at the end of a byte (R101) when the frame ends inside the space. -/
theorem ptr_not_last {tog : Bool} (h : SentSymbols s base n k tog v) (hk : k < n.toNat)
    (hspace : base.toNat + n.toNat / 8 < 65536) : ¬ (v.mask = 1 ∧ v.ptr = 0xFFFF) := by
  rintro ⟨hmask, hptr⟩
  rw [h.mask, symbolMask_eq_one_iff] at hmask
  have hend : base.toNat + k / 8 = 65535 := by rw [← h.ptr, hptr]; rfl
  omega

/-- The second fire is the active tick, and sends the symbol (R100, R101). -/
theorem execSymFire (h : SentSymbols s base n k true v) (hk : k < n.toNat)
    (hspace : base.toNat + n.toNat / 8 < 65536) (hin : s.region.contains (base.toNat + k / 8) = true)
    (hwritten : (Memory.read s.mem (base.toNat + k / 8)).isSome = true) :
    execSymFire v = .next (binaryAdvance (modulated (binarySymbol s.mem base.toNat k) v)) := by
  obtain ⟨x, hx⟩ := Option.isSome_iff_exists.1 hwritten
  have hbit : binarySymbol s.mem base.toNat k = maskedBit x v.mask := by
    rw [h.mask, maskedBit_symbolMask, binarySymbol, hx]
  rw [hbit, execSymFire_of_tog h.stall (by simp [h.schEn, hk]) h.tog]
  exact activeTick_binary (by simp [h.txs, hk]) (fun _ => busReady_of_none h.stall h.bus)
    (by rwa [h.region, h.ptr]) (by rwa [h.mem, h.ptr]) (h.ptr_not_last hk hspace)

theorem rem_sub_one {tog : Bool} (h : SentSymbols s base n k tog v) (hk : k < n.toNat) :
    (v.rem - 1).toNat = n.toNat - (k + 1) := by
  have := h.rem
  bv_omega

theorem lastBit_eq {tog : Bool} (h : SentSymbols s base n k tog v) (hk : k < n.toNat) :
    lastBit v.rem = decide (n.toNat ≤ k + 1) := by
  have hrem := h.rem_sub_one hk
  have hzero : v.rem - 1 = 0 ↔ n.toNat ≤ k + 1 := by
    rw [← BitVec.toNat_inj, hrem]
    exact Nat.sub_eq_zero_iff_le
  rw [lastBit, Bool.beq_eq_decide_eq]
  exact decide_eq_decide.2 hzero

theorem ptr_succ {tog : Bool} (h : SentSymbols s base n k tog v) (hk : k < n.toNat)
    (hspace : base.toNat + n.toNat / 8 < 65536) :
    (if v.mask = 1 then v.ptr + 1 else v.ptr).toNat = base.toNat + (k + 1) / 8 := by
  have hptr := h.ptr
  by_cases hlast : k % 8 = 7
  · rw [if_pos (by rwa [h.mask, symbolMask_eq_one_iff]), BitVec.toNat_add, hptr]
    simp only [BitVec.ofNat_eq_ofNat, BitVec.toNat_ofNat]
    omega
  · rw [if_neg (by rwa [h.mask, symbolMask_eq_one_iff]), hptr]
    omega

/-- The active tick adds the events of its symbol (R103, R106). -/
theorem trace_succ {tog : Bool} (h : SentSymbols s base n k tog v) :
    (if v.mask = 1 then (modulated (binarySymbol s.mem base.toNat k) v).trace ++ [.wdtKick]
      else (modulated (binarySymbol s.mem base.toNat k) v).trace) =
      s.trace ++ (List.range (k + 1)).flatMap (binaryEvents s.cfg s.mode s.mem base.toNat) := by
  simp only [modulated_trace, h.trace, h.cfg, h.mode, h.mask, symbolMask_eq_one_iff, List.range_succ,
    List.flatMap_append]
  by_cases hlast : k % 8 = 7
  · simp [binaryEvents, hlast]
  · simp [binaryEvents, hlast]

/-- The active tick leaves the block after one more symbol. -/
theorem tick (h : SentSymbols s base n k true v) (hk : k < n.toNat) (hspace : base.toNat + n.toNat / 8 < 65536) :
    SentSymbols s base n (k + 1) false (binaryAdvance (modulated (binarySymbol s.mem base.toNat k) v)) := by
  have hlast := h.lastBit_eq hk
  rw [binaryAdvance_eq]
  exact {
    stall := by simp [h.stall]
    bus := modulated_bus_none h.bus _
    cfg := by simp [h.cfg]
    mode := by simp [h.mode]
    mem := by simp [h.mem]
    region := by simp [h.region]
    tog := rfl
    schEn := by simp [hlast, h.schEn, hk, ← decide_not]
    txs := by by_cases hend : n.toNat ≤ k + 1 <;> simp [hlast, h.txs, hk, hend]
    done := by simp [hlast, h.done, Nat.not_le.2 hk]
    rem := by simpa using h.rem_sub_one hk
    ptr := by simpa using h.ptr_succ hk hspace
    mask := by simp [h.mask, symbolMask_succ]
    trace := by simpa using h.trace_succ }

end SentSymbols

/-! ### The whole frame -/

section
variable {s u : State} {base n : Word16} (h0 : SentSymbols s base n 0 false u)
  (hspace : base.toNat + n.toNat / 8 < 65536)
  (hin : ∀ k < n.toNat, s.region.contains (base.toNat + k / 8) = true)
  (hwritten : ∀ a, s.region.contains a = true → (Memory.read s.mem a).isSome = true)
include h0 hspace hin hwritten

/-- Two fires a symbol: after `2k` of them the block has sent `k` symbols. -/
theorem symFires_sentSymbols {k : Nat} (hk : k ≤ n.toNat) :
    ∃ v, symFires (2 * k) u = .next v ∧ SentSymbols s base n k false v := by
  induction k with
  | zero => exact ⟨u, rfl, h0⟩
  | succ k ih =>
    obtain ⟨v, hv, h⟩ := ih (by omega)
    obtain ⟨hfire, htoggled⟩ := h.toggle hk
    have hread := hwritten _ (hin k hk)
    exact ⟨_, (symFires_succ ((symFires_succ hv).trans hfire)).trans (htoggled.execSymFire hk hspace (hin k hk) hread),
      htoggled.tick hk hspace⟩

end

/-- Settles O46: `BIN_SEND` starts the frame, two fires send a symbol, and after the last one the scheduler is masked. -/
theorem binaryFrameIsSent : Obligations.BinaryFrameIsSent := by
  intro s base n hinv hl hb hidle hn hin hspace
  have hpos : 0 < n.toNat := Nat.pos_of_ne_zero fun h0 => hn (BitVec.eq_of_toNat_eq h0)
  have htog : s.tog = false := hinv.toggleRests (by simpa [hidle] using hinv.enabledIffActive)
  have hstart : exec (.binSend base n) s = .next (startBinary base n s) := by
    simp only [exec, execBinSend, whenLive_of_live hl, whenIdle_of_idle hidle, if_neg hn]
  have sent (k : Nat) (hk : k ≤ n.toNat) :=
    symFires_sentSymbols (sentSymbols_startBinary base hl hb htog hpos) hspace hin hinv.regionWritten hk
  obtain ⟨t, ht, hend⟩ := sent n.toNat le_rfl
  refine ⟨startBinary base n s, t, hstart, fun k hk => ?_, ht, hend.trace, by simp [hend.txs], by simp [hend.done],
    by simp [hend.schEn], hend.tog, BitVec.eq_of_toNat_eq (by simp [hend.rem]), hend.ptr, hend.mask,
    execSymFire_of_schEn_false (by simp [hend.schEn])⟩
  obtain ⟨v, hv, h⟩ := sent k hk.le
  exact ⟨v, _, hv, (symFires_succ hv).trans (h.toggle hk).1, h.trace, rfl⟩

end Sys2Proof.Machine
end

section
/-! The encodings read back (spec/30_encoding.md R64 to R72): what each command word decodes to, the operand fields of a
word whose other bits are 0, and the fields of a bus frame. -/

namespace Sys2Proof.Machine

/-! ### The bits of `arg` that R66 does not name -/

theorem whenArgClear_eq_ok {unnamed arg : ArgWord} {i j : Instr} :
    whenArgClear unnamed arg i = .ok j ↔ arg &&& unnamed = 0 ∧ i = j := by
  by_cases h : arg &&& unnamed = 0
  · rw [whenArgClear, if_pos h, and_iff_right h, Except.ok.injEq]
  · rw [whenArgClear, if_neg h]
    exact iff_of_false nofun fun hok => h hok.1

theorem whenArgClear_of_clear {unnamed arg : ArgWord} (h : arg &&& unnamed = 0) (i : Instr) :
    whenArgClear unnamed arg i = .ok i := whenArgClear_eq_ok.2 ⟨h, rfl⟩

theorem getLsbD_of_clear {unnamed arg : ArgWord} {i : Nat} (h : arg &&& unnamed = 0) (hi : unnamed.getLsbD i = true) :
    arg.getLsbD i = false := by
  have hbit : (arg &&& unnamed).getLsbD i = false := by simp [h]
  simpa [hi] using hbit

theorem eq_zero_of_clear {arg : ArgWord} (h : arg &&& 0xFFFFFFFF#32 = 0) : arg = 0 := by
  have hones : 0xFFFFFFFF#32 = BitVec.allOnes 32 := by decide
  rwa [hones, BitVec.and_allOnes] at h

theorem argSetBaud_of_clear {arg : ArgWord} (h : arg &&& 0xFFFFFFFE#32 = 0) :
    argSetBaud (arg.extractLsb' 0 1) = arg := by
  have setAbove : ∀ i < 32, ¬ i < 1 → (0xFFFFFFFE#32).getLsbD i = true := by decide
  apply BitVec.eq_of_getLsbD_eq
  intro i hi
  by_cases h1 : i < 1
  · simp [argSetBaud, h1, hi]
  · simp [argSetBaud, h1, getLsbD_of_clear h (setAbove i hi h1)]

theorem argRttySend_of_clear {arg : ArgWord} (h : arg &&& 0xFFFFFF00#32 = 0) :
    argRttySend (arg.extractLsb' 0 8) = arg := by
  have setAbove : ∀ i < 32, ¬ i < 8 → (0xFFFFFF00#32).getLsbD i = true := by decide
  apply BitVec.eq_of_getLsbD_eq
  intro i hi
  rw [getLsbD_argRttySend]
  by_cases h8 : i < 8
  · simp [h8]
  · simp [h8, getLsbD_of_clear h (setAbove i hi h8)]

theorem argBinSend_of_fields (arg : ArgWord) : argBinSend (arg.extractLsb' 16 16) (arg.extractLsb' 0 16) = arg := by
  apply BitVec.eq_of_getLsbD_eq
  intro i hi
  rw [getLsbD_argBinSend]
  by_cases h16 : i < 16
  · simp [h16]
  · simp [h16, show 16 + (i - 16) = i by omega, show i - 16 < 16 by omega]

theorem argDacWrite_of_clear {arg : ArgWord} (h : arg &&& 0xFFF00000#32 = 0) :
    argDacWrite (arg.extractLsb' 16 4) (arg.extractLsb' 0 16) = arg := by
  have setAbove : ∀ i < 32, ¬ i < 20 → (0xFFF00000#32).getLsbD i = true := by decide
  apply BitVec.eq_of_getLsbD_eq
  intro i hi
  rw [getLsbD_argDacWrite]
  by_cases h16 : i < 16
  · simp [h16]
  · by_cases h20 : i < 20
    · simp [h16, show 16 + (i - 16) = i by omega, show i - 16 < 4 by omega]
    · simp [h16, show ¬ i - 16 < 4 by omega, getLsbD_of_clear h (setAbove i hi h20)]

/-! ### A command word by its operation code -/

theorem decodeHc_of_unknownOp {op : Byte} (h : op.toNat < 1 ∨ 8 < op.toNat) (arg : ArgWord) :
    decodeHc (hcWord op arg) = .error .unknownOp := by
  have outside : ∀ k : Byte, 1 ≤ k.toNat ∧ k.toNat ≤ 8 → op ≠ k := by rintro k hk rfl; omega
  simp [decodeHc, outside]

/-- Each operation code has one command, whose operands are the bits of `arg` that R66 names (R65, R66). -/
theorem decodeHc_of_knownOp {op : Byte} (h1 : 1 ≤ op.toNat) (h8 : op.toNat ≤ 8) (arg : ArgWord) :
    ∃ i, decodeHc (hcWord op arg) = whenArgClear (~~~ namedArgBits op.toNat) arg i ∧
      (arg &&& ~~~ namedArgBits op.toNat = 0 → encode i = .hc (hcWord op arg)) := by
  have codes : ∀ op : Byte, 1 ≤ op.toNat → op.toNat ≤ 8 →
      op = 1 ∨ op = 2 ∨ op = 3 ∨ op = 4 ∨ op = 5 ∨ op = 6 ∨ op = 7 ∨ op = 8 := by decide
  rcases codes op h1 h8 with rfl | rfl | rfl | rfl | rfl | rfl | rfl | rfl
  · exact ⟨.setFsk, by simp [decodeHc, namedArgBits], fun h => by rw [eq_zero_of_clear h]; rfl⟩
  · exact ⟨.setAfsk, by simp [decodeHc, namedArgBits], fun h => by rw [eq_zero_of_clear h]; rfl⟩
  · exact ⟨.setBaud (arg.extractLsb' 0 1), by simp [decodeHc, namedArgBits],
      fun h => by rw [encode, argSetBaud_of_clear h]⟩
  · exact ⟨.rttySend (arg.extractLsb' 0 8), by simp [decodeHc, namedArgBits],
      fun h => by rw [encode, argRttySend_of_clear h]⟩
  · exact ⟨.binSend (arg.extractLsb' 16 16) (arg.extractLsb' 0 16), by simp [decodeHc, namedArgBits],
      fun _ => by rw [encode, argBinSend_of_fields]⟩
  · exact ⟨.dacWrite (arg.extractLsb' 16 4) (arg.extractLsb' 0 16), by simp [decodeHc, namedArgBits],
      fun h => by rw [encode, argDacWrite_of_clear h]⟩
  · exact ⟨.dacOff, by simp [decodeHc, namedArgBits], fun h => by rw [eq_zero_of_clear h]; rfl⟩
  · exact ⟨.rdStatus, by simp [decodeHc, namedArgBits], fun h => by rw [eq_zero_of_clear h]; rfl⟩

/-! ### A bus frame by its fields -/

theorem dfWrite_tag (ch : ChannelId) (v : Word16) : (0x3#4 ++ ch ++ v : DfWord).extractLsb' 20 4 = 0x3 := by
  apply BitVec.eq_of_getLsbD_eq
  intro i hi
  simp [getLsbD_dfWrite, hi, show ¬ 20 + i < 16 by omega]

theorem dfWrite_channel (ch : ChannelId) (v : Word16) : (0x3#4 ++ ch ++ v : DfWord).extractLsb' 16 4 = ch := by
  apply BitVec.eq_of_getLsbD_eq
  intro i hi
  simp [getLsbD_dfWrite, hi, show 16 + i < 20 by omega]

theorem dfWrite_value (ch : ChannelId) (v : Word16) : (0x3#4 ++ ch ++ v : DfWord).extractLsb' 0 16 = v := by
  apply BitVec.eq_of_getLsbD_eq
  intro i hi
  simp [getLsbD_dfWrite, hi]

theorem dfWrite_of_fields {w : DfWord} (h : w.extractLsb' 20 4 = 0x3) :
    (0x3#4 ++ w.extractLsb' 16 4 ++ w.extractLsb' 0 16 : DfWord) = w := by
  apply BitVec.eq_of_getLsbD_eq
  intro i hi
  rw [getLsbD_dfWrite, ← show w.extractLsb' 20 4 = 0x3#4 from h]
  split_ifs with h16 h20
  · simp [h16]
  · simp [show 16 + (i - 16) = i by omega, show i - 16 < 4 by omega]
  · simp [show 20 + (i - 20) = i by omega, show i - 20 < 4 by omega]

theorem decodeDf_of_write {w : DfWord} (h : w.extractLsb' 20 4 = 0x3) :
    decodeDf w = .ok (.dacwr (w.extractLsb' 16 4) (w.extractLsb' 0 16)) := if_pos h

theorem decodeDf_dfWrite (ch : ChannelId) (v : Word16) :
    decodeDf (0x3#4 ++ ch ++ v : DfWord) = .ok (.dacwr ch v) := by
  rw [decodeDf_of_write (dfWrite_tag ch v), dfWrite_channel, dfWrite_value]

theorem decodeDf_of_foreign {w : DfWord} (h : w.extractLsb' 20 4 ≠ 0x3) (hoff : w ≠ 0x4F0000) :
    decodeDf w = .error .foreignFrame := by
  rw [decodeDf, if_neg h, if_neg hoff]

end Sys2Proof.Machine
end

section
/-! Encoding and decoding are inverse (spec/30_encoding.md R64 to R72). -/

namespace Sys2Proof.Machine

/-- Settles O1: every field of every format is read back from where the encoder puts it. -/
theorem decodeOfEncode : Obligations.DecodeOfEncode := by
  intro i
  cases i with
  | setFsk => rfl
  | setAfsk => rfl
  | setBaud preset => simp [encode, decode, decodeHc, whenArgClear]
  | rttySend byte => simp [encode, decode, decodeHc, whenArgClear]
  | binSend base bitCount => simp [encode, decode, decodeHc, whenArgClear]
  | dacWrite channel value => simp [encode, decode, decodeHc, whenArgClear]
  | dacOff => rfl
  | rdStatus => rfl
  | symFire => rfl
  | smpFire => rfl
  | reset => rfl
  | dacwr channel value => exact decodeDf_dfWrite channel value
  | dacoff => rfl

/-- A command word that decodes has a known code and no unnamed bit, and encodes its command (R65, R66). -/
theorem decodeHc_eq_ok {w : HcWord} {i : Instr} (h : decodeHc w = .ok i) :
    (1 ≤ (hcOp w).toNat ∧ (hcOp w).toNat ≤ 8 ∧ hcArg w &&& ~~~ namedArgBits (hcOp w).toNat = 0) ∧
      encode i = .hc w := by
  rw [← hcWord_of_fields w] at h
  by_cases hop : (hcOp w).toNat < 1 ∨ 8 < (hcOp w).toNat
  · rw [decodeHc_of_unknownOp hop] at h
    cases h
  · obtain ⟨h1, h8⟩ : 1 ≤ (hcOp w).toNat ∧ (hcOp w).toNat ≤ 8 := by omega
    obtain ⟨j, hj, hencode⟩ := decodeHc_of_knownOp h1 h8 (hcArg w)
    rw [hj, whenArgClear_eq_ok] at h
    obtain ⟨hclear, rfl⟩ := h
    exact ⟨⟨h1, h8, hclear⟩, by rw [hencode hclear, hcWord_of_fields]⟩

theorem encode_of_decodeDf {w : DfWord} {i : Instr} (h : decodeDf w = .ok i) : encode i = .df w := by
  by_cases hwrite : w.extractLsb' 20 4 = 0x3
  · rw [decodeDf_of_write hwrite] at h
    cases h
    rw [encode, dfWrite_of_fields hwrite]
  · by_cases hoff : w = 0x4F0000
    · subst hoff
      cases h
      rfl
    · rw [decodeDf_of_foreign hwrite hoff] at h
      cases h

/-- A strobe line that decodes pulses, and its event is the line's (R68). -/
theorem encode_of_decodeEv {line : EvLine} {level : BitVec 1} {i : Instr} (h : decodeEv line level = .ok i) :
    encode i = .ev line level := by
  unfold decodeEv at h
  split at h
  · rename_i hpulse
    subst hpulse
    cases line <;> cases h <;> rfl
  · cases h

/-- A command word of a known code with no unnamed bit decodes (R65, R66). -/
theorem decodeHc_of_legal {w : HcWord} (h1 : 1 ≤ (hcOp w).toNat) (h8 : (hcOp w).toNat ≤ 8)
    (hclear : hcArg w &&& ~~~ namedArgBits (hcOp w).toNat = 0) : ∃ i, decodeHc w = .ok i := by
  obtain ⟨i, hi, -⟩ := decodeHc_of_knownOp h1 h8 (hcArg w)
  rw [hcWord_of_fields, whenArgClear_of_clear hclear] at hi
  exact ⟨i, hi⟩

/-- Settles O2, one port at a time. -/
theorem encodeOfDecode : Obligations.EncodeOfDecode := by
  intro w i h
  cases w with
  | hc w => exact (decodeHc_eq_ok h).2
  | ev line level => exact encode_of_decodeEv h
  | df w => exact encode_of_decodeDf h

/-- Settles O3: each of these words is its operation's encoding. -/
theorem tableWordsDecode : Obligations.TableWordsDecode :=
  ⟨decodeOfEncode (.binSend 0x0100 12), decodeOfEncode (.dacWrite 0 0x8000), decodeOfEncode (.setBaud 1),
    decodeOfEncode .smpFire, decodeOfEncode (.dacwr 1 0x0120), decodeOfEncode .dacoff⟩

end Sys2Proof.Machine
end

section
/-! What arrives in an encoded form is refused or run (spec/30_encoding.md R76, R77). -/

namespace Sys2Proof.Machine

/-- `DAC_WRITE` of a foreign channel is V8 (R76), whatever the block is doing (R154). -/
theorem exec_dacWrite_of_foreign (s : State) {ch : ChannelId} (hl : s.stall = none)
    (h : ¬ (ch = s.cfg.chCoarse ∨ ch = s.cfg.chFine)) (v : Word16) :
    exec (.dacWrite ch v) s = .refused (.illegalCommand (hcWord 0x06 (argDacWrite ch v))) := by
  rw [← channelLegal_iff] at h
  simp only [exec, execDacWrite, whenLive_of_live hl, if_neg h]

/-- A write frame of a foreign channel is refused (R77), with the frame as it stands on the bus. -/
theorem exec_dacwr_of_foreign (s : State) {ch : ChannelId} (hl : s.stall = none)
    (h : ¬ (ch = s.cfg.chCoarse ∨ ch = s.cfg.chFine)) (v : Word16) :
    exec (.dacwr ch v) s = .refused (.foreignFrame (0x3#4 ++ ch ++ v)) := by
  rw [← channelLegal_iff] at h
  simp only [exec, execDacwr, whenLive_of_live hl, if_neg h, writeCommandByte_nibbles]

/-- A word that the decoder reads nothing from is illegal (R76). -/
theorem illegalWord_of_error {w : HcWord} {e : DecodeError} (h : decodeHc w = .error e) (c : Config) :
    illegalWord c w := by
  by_contra hlegal
  simp only [illegalWord, not_or, Nat.not_lt, not_not] at hlegal
  obtain ⟨h1, h8, hclear, -⟩ := hlegal
  obtain ⟨i, hi⟩ := decodeHc_of_legal h1 h8 hclear
  cases hi.symm.trans h

theorem extractLsb'_hcArg {start len : Nat} (h : start + len ≤ 32) (w : HcWord) :
    (hcArg w).extractLsb' start len = w.extractLsb' start len := by
  apply BitVec.eq_of_getLsbD_eq
  intro i hi
  simp [hcArg, hi, show start + i < 32 by omega]

theorem decodeHc_of_dacWriteOp {w : HcWord} (hop : (hcOp w).toNat = 6) {i : Instr} (h : decodeHc w = .ok i) :
    i = .dacWrite (w.extractLsb' 16 4) (w.extractLsb' 0 16) := by
  have h6 : hcOp w = 6 := BitVec.eq_of_toNat_eq hop
  have hread : decodeHc w = whenArgClear 0xFFF00000 (hcArg w)
      (.dacWrite ((hcArg w).extractLsb' 16 4) ((hcArg w).extractLsb' 0 16)) := by simp [decodeHc, h6]
  rw [hread, whenArgClear_eq_ok] at h
  rw [← h.2, extractLsb'_hcArg (by decide), extractLsb'_hcArg (by decide)]

/-- An illegal word is one that the decoder reads nothing from, or `DAC_WRITE` of a foreign channel (R76). -/
theorem decodeHc_of_illegalWord {c : Config} {w : HcWord} (h : illegalWord c w) :
    (∃ e, decodeHc w = .error e) ∨
      ∃ ch v, decodeHc w = .ok (.dacWrite ch v) ∧ ¬ (ch = c.chCoarse ∨ ch = c.chFine) := by
  cases hd : decodeHc w with
  | error e => exact .inl ⟨e, rfl⟩
  | ok i =>
    obtain ⟨⟨h1, h8, hclear⟩, -⟩ := decodeHc_eq_ok hd
    rcases h with hlow | hhigh | hbits | ⟨hop, hforeign⟩
    · exact absurd hlow (Nat.not_lt.2 h1)
    · exact absurd hhigh (Nat.not_lt.2 h8)
    · exact absurd hclear hbits
    · exact .inr ⟨_, _, congrArg _ (decodeHc_of_dacWriteOp hop hd), not_or.2 hforeign⟩

/-- A frame that the decoder reads nothing from is none of the block's (R77). -/
theorem not_emittedFrame_of_error {w : DfWord} {e : DecodeError} (h : decodeDf w = .error e) (c : Config) :
    ¬ emittedFrame c w := by
  rintro (⟨hwrite, -⟩ | rfl)
  · cases (decodeDf_of_write hwrite).symm.trans h
  · cases h

/-- A frame that is none of the block's is one that the decoder reads nothing from, or a write of a foreign channel
(R77). -/
theorem decodeDf_of_not_emittedFrame {c : Config} {w : DfWord} (h : ¬ emittedFrame c w) :
    (∃ e, decodeDf w = .error e) ∨
      ∃ ch v, decodeDf w = .ok (.dacwr ch v) ∧ ¬ (ch = c.chCoarse ∨ ch = c.chFine) := by
  obtain ⟨hchannel, hoff⟩ := not_or.1 h
  by_cases hwrite : w.extractLsb' 20 4 = 0x3
  · exact .inr ⟨_, _, decodeDf_of_write hwrite, fun hch => hchannel ⟨hwrite, hch⟩⟩
  · exact .inl ⟨_, decodeDf_of_foreign hwrite hoff⟩

section
variable {s : State} {w : Wire} {rest : List Arrival} (hc : configOk s.cfg = true) (ha : s.inbox = .wire w :: rest)
include hc ha

/-- A wire that decodes runs as the one operation that it encodes. -/
theorem step_of_decodable (h : ∀ e, decode w ≠ .error e) :
    ∃ i, decode w = .ok i ∧ encode i = w ∧ step s = exec i { s with inbox := rest } := by
  cases hd : decode w with
  | error e => exact absurd hd (h e)
  | ok i => exact ⟨i, rfl, encodeOfDecode w i hd, stepRunsDecoded s w rest i hc ha hd⟩

/-- A wire that does not decode is rejected. -/
theorem step_of_undecodable {e : DecodeError} (h : decode w = .error e) :
    step s = rejectWire w { s with inbox := rest } := by
  rw [step_of_arrival hc ha]
  simp only [deliver, deliverWire, h]

end

/-- Settles O4: V8 comes from the decoder, or from `DAC_WRITE` of a foreign channel. -/
theorem illegalWordsRefused : Obligations.IllegalWordsRefused := by
  intro s w rest hc hl ha
  refine ⟨fun hbad => ?_, fun hgood => step_of_decodable hc ha fun e he => hgood (illegalWord_of_error he s.cfg)⟩
  rcases decodeHc_of_illegalWord hbad with ⟨e, he⟩ | ⟨ch, v, hd, hforeign⟩
  · rw [step_of_undecodable hc ha he]
    exact whenLive_of_live hl _
  · have hw : hcWord 0x06 (argDacWrite ch v) = w := Wire.hc.inj (encodeOfDecode (.hc w) _ hd)
    rw [← hw]
    exact (stepRunsDecoded s _ rest _ hc ha hd).trans (exec_dacWrite_of_foreign { s with inbox := rest } hl hforeign v)

/-- Settles O55: a frame is refused by the decoder, or as a write of a foreign channel. -/
theorem foreignFramesRefused : Obligations.ForeignFramesRefused := by
  intro s w rest hc hl ha
  refine ⟨fun hbad => ?_, fun hgood => step_of_decodable hc ha fun e he => not_emittedFrame_of_error he s.cfg hgood⟩
  rcases decodeDf_of_not_emittedFrame hbad with ⟨e, he⟩ | ⟨ch, v, hd, hforeign⟩
  · rw [step_of_undecodable hc ha he]
    exact whenLive_of_live hl _
  · have hw : 0x3#4 ++ ch ++ v = w := Wire.df.inj (encodeOfDecode (.df w) _ hd)
    rw [← hw]
    exact (stepRunsDecoded s _ rest _ hc ha hd).trans (exec_dacwr_of_foreign { s with inbox := rest } hl hforeign v)

end Sys2Proof.Machine
end

section
/-! A whole RTTY character (spec/30_encoding.md R73; spec/41_symbol_scheduler.md R102, R109, R111): what the block is
after each of its symbols, and the induction over them. -/

namespace Sys2Proof.Machine

/-! ### The character frame by position -/

/-- A position counts up to `W + S` without a wrap, and the last position holds a stop bit (R6, R73). -/
theorem frame_bounds {c : Config} (hc : configOk c = true) : 1 ≤ c.rttyStop ∧ c.rttyBits + c.rttyStop < 15 := by
  obtain ⟨hbits, hstop, -⟩ := (configOk_iff c).1 hc
  omega

theorem length_rttyFrame (c : Config) (byte : Byte) :
    (rttyFrame c byte).length = c.rttyBits + c.rttyStop + 1 := by
  simp [rttyFrame]

/-- The framer's bit at a position is that symbol of the frame: start, data, stop (R73, R102). -/
theorem rttyFrame_getElem? {c : Config} {pos : BitVec 4} (h : pos.toNat ≤ c.rttyBits + c.rttyStop) (byte : Byte) :
    (rttyFrame c byte)[pos.toNat]? = some (rttyBit c byte pos) := by
  unfold rttyFrame rttyBit
  by_cases hstart : pos = 0
  · simp [hstart]
  · obtain ⟨p, hp⟩ : ∃ p, pos.toNat = p + 1 :=
      Nat.exists_eq_succ_of_ne_zero fun h0 => hstart (BitVec.eq_of_toNat_eq h0)
    rw [if_neg hstart, hp, List.getElem?_cons_succ, Nat.add_sub_cancel]
    by_cases hdata : p + 1 ≤ c.rttyBits
    · rw [if_pos hdata, List.getElem?_append_left (by simpa using hdata)]
      simp [Nat.lt_of_succ_le hdata]
    · have hlength : ((List.range c.rttyBits).map (byte.getLsbD ·)).length = c.rttyBits := by simp
      rw [if_neg hdata, List.getElem?_append_right (by omega), List.getElem?_replicate, if_pos (by omega)]

/-- The last symbol of a frame is a stop bit (R73). -/
theorem rttyBit_of_last {c : Config} {pos : BitVec 4} (hstop : 1 ≤ c.rttyStop)
    (h : pos.toNat = c.rttyBits + c.rttyStop) (byte : Byte) : rttyBit c byte pos = true := by
  have hpos : pos ≠ 0 := by
    rintro rfl
    have hzero : (0 : BitVec 4).toNat = 0 := rfl
    omega
  rw [rttyBit, if_neg hpos, if_neg (by omega)]

/-! ### The block after `k` symbols -/

/-- The block after the first `k` symbols of a character's frame, started in `s` (R102, R105, R109); `tog` says whether
its next fire is the active one (R99). -/
structure SentPositions (s : State) (byte : Byte) (k : Nat) (tog : Bool) (v : State) : Prop where
  stall : v.stall = none
  bus : v.bus = none
  cfg : v.cfg = s.cfg
  mode : v.mode = s.mode
  rbyte : v.rbyte = byte
  tog : v.tog = tog
  schEn : v.schEn = decide (k ≤ s.cfg.rttyBits + s.cfg.rttyStop)
  txs : v.txs = if k ≤ s.cfg.rttyBits + s.cfg.rttyStop then .rtty else .idle
  done : v.done = decide (s.cfg.rttyBits + s.cfg.rttyStop < k)
  pos : v.pos.toNat = min k (s.cfg.rttyBits + s.cfg.rttyStop)
  tone : s.cfg.rttyBits + s.cfg.rttyStop < k → v.tone = true
  trace : v.trace = s.trace ++ ((rttyFrame s.cfg byte).take k).flatMap (symbolEvents s.cfg s.mode)

/-- `RTTY_SEND` leaves the block before the character's first symbol (R87). -/
theorem sentPositions_startRtty {s : State} (byte : Byte) (hl : s.stall = none) (hb : s.bus = none)
    (htog : s.tog = false) : SentPositions s byte 0 false (startRtty byte s) := by
  constructor <;> simp [startRtty, hl, hb, htog]

namespace SentPositions

variable {s v : State} {byte : Byte} {k : Nat}

/-- The first fire of a symbol only turns the toggle (R99). -/
theorem toggle (h : SentPositions s byte k false v) (hk : k ≤ s.cfg.rttyBits + s.cfg.rttyStop) :
    execSymFire v = .next { v with tog := true } ∧ SentPositions s byte k true { v with tog := true } :=
  ⟨execSymFire_of_tog_false h.stall (by simp [h.schEn, hk]) h.tog, { h with tog := rfl }⟩

/-- The second fire is the active tick, and sends the symbol at the position (R100, R102). -/
theorem execSymFire (h : SentPositions s byte k true v) (hk : k ≤ s.cfg.rttyBits + s.cfg.rttyStop) :
    execSymFire v = .next (rttyAdvance (modulated (rttyBit s.cfg byte v.pos) v)) := by
  rw [execSymFire_of_tog h.stall (by simp [h.schEn, hk]) h.tog,
    activeTick_rtty (by simp [h.txs, hk]) (fun _ => busReady_of_none h.stall h.bus), h.cfg, h.rbyte]

theorem pos_eq {tog : Bool} (h : SentPositions s byte k tog v) (hk : k ≤ s.cfg.rttyBits + s.cfg.rttyStop) :
    v.pos.toNat = k := by
  rw [h.pos, Nat.min_eq_left hk]

theorem lastPosition_eq {tog : Bool} (h : SentPositions s byte k tog v)
    (hk : k ≤ s.cfg.rttyBits + s.cfg.rttyStop) :
    lastPosition v.cfg v.pos = decide (s.cfg.rttyBits + s.cfg.rttyStop < k + 1) := by
  rw [lastPosition, h.cfg, h.pos_eq hk, Bool.beq_eq_decide_eq]
  exact decide_eq_decide.2 (by omega)

theorem pos_succ {tog : Bool} (h : SentPositions s byte k tog v) (hc : configOk s.cfg = true)
    (hk : k ≤ s.cfg.rttyBits + s.cfg.rttyStop) :
    (if lastPosition v.cfg v.pos then v.pos else v.pos + 1).toNat = min (k + 1) (s.cfg.rttyBits + s.cfg.rttyStop) := by
  have hfits := (frame_bounds hc).2
  have hpos := h.pos_eq hk
  rw [h.lastPosition_eq hk]
  by_cases hend : s.cfg.rttyBits + s.cfg.rttyStop < k + 1
  · rw [if_pos (decide_eq_true hend), hpos]
    omega
  · rw [if_neg (by simpa using hend), BitVec.toNat_add, hpos]
    simp only [BitVec.ofNat_eq_ofNat, BitVec.toNat_ofNat]
    omega

/-- The last symbol sent is a stop bit (R73), which leaves the tone at mark. -/
theorem rttyBit_last {tog : Bool} (h : SentPositions s byte k tog v) (hc : configOk s.cfg = true)
    (hk : k ≤ s.cfg.rttyBits + s.cfg.rttyStop) (hend : s.cfg.rttyBits + s.cfg.rttyStop < k + 1) :
    rttyBit s.cfg byte v.pos = true :=
  rttyBit_of_last (frame_bounds hc).1 (by rw [h.pos_eq hk]; omega) byte

/-- The active tick adds the events of its symbol (R103). -/
theorem trace_succ {tog : Bool} (h : SentPositions s byte k tog v) (hk : k ≤ s.cfg.rttyBits + s.cfg.rttyStop) :
    (modulated (rttyBit s.cfg byte v.pos) v).trace =
      s.trace ++ ((rttyFrame s.cfg byte).take (k + 1)).flatMap (symbolEvents s.cfg s.mode) := by
  have hsymbol : (rttyFrame s.cfg byte)[k]? = some (rttyBit s.cfg byte v.pos) := by
    have := rttyFrame_getElem? (c := s.cfg) (pos := v.pos) (by rwa [h.pos_eq hk]) byte
    rwa [h.pos_eq hk] at this
  rw [modulated_trace, h.trace, h.cfg, h.mode, List.take_add_one, hsymbol]
  simp

/-- The active tick leaves the block after one more symbol. -/
theorem tick (h : SentPositions s byte k true v) (hc : configOk s.cfg = true)
    (hk : k ≤ s.cfg.rttyBits + s.cfg.rttyStop) :
    SentPositions s byte (k + 1) false (rttyAdvance (modulated (rttyBit s.cfg byte v.pos) v)) := by
  have hlast := h.lastPosition_eq hk
  rw [rttyAdvance_eq]
  exact {
    stall := by simp [h.stall]
    bus := modulated_bus_none h.bus _
    cfg := by simp [h.cfg]
    mode := by simp [h.mode]
    rbyte := by simp [h.rbyte]
    tog := rfl
    schEn := by simp [hlast, h.schEn, hk, ← decide_not]
    txs := by
      by_cases hend : s.cfg.rttyBits + s.cfg.rttyStop < k + 1
      · rw [if_neg (Nat.not_le.2 hend)]; simp [hlast, hend]
      · rw [if_pos (Nat.not_lt.1 hend)]; simp [hlast, hend, h.txs, hk]
    done := by simp [hlast, h.done, Nat.not_lt.2 hk]
    pos := by simpa using h.pos_succ hc hk
    tone := fun hend => by simpa using h.rttyBit_last hc hk hend
    trace := by simpa using h.trace_succ hk }

end SentPositions

/-! ### The whole character -/

/-- Two fires a symbol: after `2k` of them the block has sent `k` symbols. -/
theorem symFires_sentPositions {s u : State} {byte : Byte} (h0 : SentPositions s byte 0 false u)
    (hc : configOk s.cfg = true) {k : Nat} (hk : k ≤ s.cfg.rttyBits + 1 + s.cfg.rttyStop) :
    ∃ v, symFires (2 * k) u = .next v ∧ SentPositions s byte k false v := by
  induction k with
  | zero => exact ⟨u, rfl, h0⟩
  | succ k ih =>
    obtain ⟨v, hv, h⟩ := ih (by omega)
    have hin : k ≤ s.cfg.rttyBits + s.cfg.rttyStop := by omega
    obtain ⟨hfire, htoggled⟩ := h.toggle hin
    have hpair := (symFires_succ ((symFires_succ hv).trans hfire)).trans (htoggled.execSymFire hin)
    exact ⟨_, hpair, htoggled.tick hc hin⟩

/-- Settles O45: `RTTY_SEND` starts the character, two fires send a symbol, and after the last one the scheduler is
masked. -/
theorem characterIsFramed : Obligations.CharacterIsFramed := by
  intro s byte hinv hl hb hidle
  have htog : s.tog = false := hinv.toggleRests (by simpa [hidle] using hinv.enabledIffActive)
  have hstart : exec (.rttySend byte) s = .next (startRtty byte s) := by
    simp only [exec, execRttySend, whenLive_of_live hl, whenIdle_of_idle hidle]
  have sent (k : Nat) (hk : k ≤ s.cfg.rttyBits + 1 + s.cfg.rttyStop) :=
    symFires_sentPositions (sentPositions_startRtty byte hl hb htog) hinv.config hk
  obtain ⟨t, ht, hend⟩ := sent _ le_rfl
  have hpast : s.cfg.rttyBits + s.cfg.rttyStop < s.cfg.rttyBits + 1 + s.cfg.rttyStop := by omega
  have hwhole : (rttyFrame s.cfg byte).take (s.cfg.rttyBits + 1 + s.cfg.rttyStop) = rttyFrame s.cfg byte :=
    List.take_of_length_le (by rw [length_rttyFrame]; omega)
  refine ⟨startRtty byte s, t, hstart, fun k hk => ?_, ht, hwhole ▸ hend.trace, ?_, ?_, ?_, hend.tog,
    hend.tone hpast, ?_, execSymFire_of_schEn_false ?_⟩
  · obtain ⟨v, hv, h⟩ := sent k hk.le
    exact ⟨v, _, hv, (symFires_succ hv).trans (h.toggle (by omega)).1, h.trace, rfl⟩
  · rw [hend.txs, if_neg (Nat.not_le.2 hpast)]
  · rw [hend.done, decide_eq_true hpast]
  · rw [hend.schEn, decide_eq_false (Nat.not_le.2 hpast)]
  · rw [hend.pos, Nat.min_eq_right hpast.le]
  · rw [hend.schEn, decide_eq_false (Nat.not_le.2 hpast)]

end Sys2Proof.Machine
end

section
/-! The host commands in every state of the block (spec/40_host_commands.md R84 to R93): what a command of R92's table
does where it is legal, the violation it is where it is not, and the one tick that ends a transmission. -/

namespace Sys2Proof.Machine

section
variable {s : State}

/-! ### What ends a transmission -/

theorem lastPosition_iff {c : Config} {pos : BitVec 4} :
    lastPosition c pos = true ↔ pos.toNat = c.rttyBits + c.rttyStop := beq_iff_eq

/-- The decremented counter of R101 is 0 exactly at `REM = 1`. -/
theorem lastBit_iff {rem : Word16} : lastBit rem = true ↔ rem = 1 := by
  rw [lastBit, beq_iff_eq]
  exact sub_eq_zero

/-- Only the arm's own register writes can end a transmission: a tick that hangs in its frame leaves `TXS` alone. -/
theorem modulateThen_ends {b : Bool} {after : State → State} (hbusy : s.txs ≠ .idle)
    (hend : (modulateThen b s after).txs = .idle) : (after (modulated b s)).txs = .idle := by
  rcases modulateThen_cases b s after with ht | ⟨k, -, -, -, ht⟩
  · rwa [ht] at hend
  · rw [ht] at hend
    exact absurd hend hbusy

theorem rttyAdvance_ends (hbusy : s.txs ≠ .idle) (hend : (rttyAdvance s).txs = .idle) :
    s.pos.toNat = s.cfg.rttyBits + s.cfg.rttyStop := by
  rw [rttyAdvance_eq] at hend
  exact lastPosition_iff.1 (by_contra fun hl => hbusy (by simpa [hl] using hend))

theorem binaryAdvance_ends (hbusy : s.txs ≠ .idle) (hend : (binaryAdvance s).txs = .idle) : s.rem = 1 := by
  rw [binaryAdvance_eq] at hend
  exact lastBit_iff.1 (by_contra fun hl => hbusy (by simpa [hl] using hend))

/-- A symbol fire that ends a transmission is its final tick (R101, R102). -/
theorem execSymFire_finalTick {t : State} (h : execSymFire s = .next t) (hbusy : s.txs ≠ .idle)
    (hend : t.txs = .idle) :
    s.schEn = true ∧ s.tog = true ∧
      (s.txs = .rtty → s.pos.toNat = s.cfg.rttyBits + s.cfg.rttyStop) ∧ (s.txs = .binary → s.rem = 1) := by
  rcases execSymFire_cases h with
    ⟨rfl, -⟩ | ⟨-, hs, ⟨-, rfl⟩ | ⟨-, hidle, -⟩ | ⟨htog, hx, rfl⟩ | ⟨htog, hx, -, -, x, -, rfl⟩⟩
  · exact absurd hend hbusy
  · exact absurd hend hbusy
  · exact absurd hidle hbusy
  · have hpos := rttyAdvance_ends (by simpa using hbusy) (modulateThen_ends hbusy hend)
    exact ⟨hs, htog, fun _ => by simpa using hpos, by simp [hx]⟩
  · have hrem := binaryAdvance_ends (by simpa using hbusy) (modulateThen_ends hbusy hend)
    exact ⟨hs, htog, by simp [hx], fun _ => by simpa using hrem⟩

/-! ### The gates of R92's table, from a state with no hung transaction -/

theorem idleGate_opens (hl : s.stall = none) (hidle : s.txs = .idle) (f : Fault) (r : Result) :
    whenLive s (whenIdle f s r) = r := by
  rw [whenLive_of_live hl, whenIdle_of_idle hidle]

theorem idleGate_faults (hl : s.stall = none) (hbusy : s.txs ≠ .idle) (f : Fault) (r : Result) :
    whenLive s (whenIdle f s r) = .fault f := by
  rw [whenLive_of_live hl, whenIdle_of_busy hbusy]

/-- In FSK mode the synthesizer is bypassed (R113). -/
theorem execSmpFire_of_fsk (hm : s.mode = .fsk) : execSmpFire s = .next s := by
  simp [execSmpFire, synthRunning, hm]

/-- `DAC_WRITE` of a legal channel has the gate of the bus (R89). -/
theorem exec_dacWrite_of_legal {ch : ChannelId} (hl : s.stall = none) (h : ch = s.cfg.chCoarse ∨ ch = s.cfg.chFine)
    (v : Word16) :
    exec (.dacWrite ch v) s = whenBusFree (hcWord 0x06 (argDacWrite ch v)) s (.next (dacWriteThen ch v s id)) := by
  rw [← channelLegal_iff] at h
  simp only [exec, execDacWrite, whenLive_of_live hl, if_pos h]

/-- `DAC_OFF` has the gate of the bus (R90). -/
theorem exec_dacOff_of_live (hl : s.stall = none) :
    exec .dacOff s = whenBusFree (hcWord 0x07 0) s (.next (dacOffFrame s)) := whenLive_of_live hl _

end

/-- Settles O39: of the writers of `TXS` (O42), the two starts need an idle block, and a symbol fire ends a transmission
on its final tick alone. -/
theorem nothingCancelsTransmission : Obligations.NothingCancelsTransmission := by
  intro i s t h hbusy hend
  by_cases hr : i = .reset
  · exact .inl hr
  obtain ⟨-, -, -, -, htxs, -⟩ := registersChangeOnlyByTheirWriters i s t h hr
  rcases htxs with hsame | ⟨b, rfl⟩ | ⟨a, n, rfl⟩ | rfl
  · exact absurd (hsame.symm.trans hend) hbusy
  · obtain ⟨-, hidle, -⟩ := exec_next h
    exact absurd hidle hbusy
  · obtain ⟨-, hidle, -⟩ := exec_next h
    exact absurd hidle hbusy
  · exact .inr ⟨rfl, execSymFire_finalTick h hbusy hend⟩

/-- Settles O10: the gate of R92, and the synthesizer bypassed in the mode the command leaves. -/
theorem setFskSelectsFsk : Obligations.SetFskSelectsFsk :=
  ⟨decodeOfEncode .setFsk, fun _ hl =>
    ⟨fun hidle => ⟨idleGate_opens hl hidle _ _, execSmpFire_of_fsk rfl⟩,
      fun hbusy => idleGate_faults hl hbusy _ _⟩⟩

/-- Settles O11, by the gate of R92. -/
theorem setAfskSelectsAfsk : Obligations.SetAfskSelectsAfsk :=
  ⟨decodeOfEncode .setAfsk, fun _ hl =>
    ⟨fun hidle => idleGate_opens hl hidle _ _, fun hbusy => idleGate_faults hl hbusy _ _⟩⟩

/-- Settles O12, by the gate of R92 for each of the two presets. -/
theorem setBaudSelectsPreset : Obligations.SetBaudSelectsPreset :=
  ⟨decodeOfEncode (.setBaud 0), decodeOfEncode (.setBaud 1), fun _ hl =>
    ⟨fun hidle => ⟨idleGate_opens hl hidle _ _, idleGate_opens hl hidle _ _⟩,
      fun hbusy => ⟨idleGate_faults hl hbusy _ _, idleGate_faults hl hbusy _ _⟩⟩⟩

/-- Settles O13, by the gate of R92; the word is the command's encoding. -/
theorem rttySendStartsCharacter : Obligations.RttySendStartsCharacter := fun _ byte hl =>
  ⟨decodeOfEncode (.rttySend byte), fun hidle => idleGate_opens hl hidle _ _,
    fun hbusy => idleGate_faults hl hbusy _ _⟩

/-- Settles O14: past the gate of R92 the count decides; at the gate it does not matter (log 13). -/
theorem binSendStartsFrame : Obligations.BinSendStartsFrame := fun _ base n hl =>
  ⟨decodeOfEncode (.binSend base n), fun hidle hn => (idleGate_opens hl hidle _ _).trans (if_neg hn),
    fun hidle hn => (idleGate_opens hl hidle _ _).trans (if_pos hn),
    fun hbusy => idleGate_faults hl hbusy _ _⟩

/-- Settles O15: the channel is judged first (R154), then the bus (R92). -/
theorem dacWriteSendsWord : Obligations.DacWriteSendsWord := by
  intro s ch v hl
  refine ⟨fun hch hidle hfree hready => ?_, fun hch hbusy => ?_, fun hcoarse hfine => ?_⟩
  · rw [exec_dacWrite_of_legal hl hch, whenBusFree_of_free hidle hfree, dacWriteThen_ready hready, id]
  · rw [exec_dacWrite_of_legal hl hch, whenBusFree_of_busy hbusy, argDacWrite]
  · exact exec_dacWrite_of_foreign s hl (not_or.2 ⟨hcoarse, hfine⟩) v

/-- Settles O16, by the gate of the bus. -/
theorem dacOffSendsPowerOff : Obligations.DacOffSendsPowerOff := by
  intro s hl
  rw [exec_dacOff_of_live hl]
  refine ⟨fun hidle hfree hready => ?_, fun hbusy => whenBusFree_of_busy hbusy _ _⟩
  rw [whenBusFree_of_free hidle hfree, dacOffFrame_ready hready]

/-- Settles O18: no gate but the hung transaction's, and the host reads `REM` back from the response. -/
theorem statusReadAnswers : Obligations.StatusReadAnswers := by
  intro s hl
  rw [exec, execRdStatus, whenLive_of_live hl, statusRem_statusWord]

end Sys2Proof.Machine
end

section
/-! The symbol fire's three ends (spec/41_symbol_scheduler.md R99 to R106): dropped or only toggled, an active tick with
its register writes, a violation (R148); and every frame's hang on a stalling bus (R125, R128, R155; log 10). -/

namespace Sys2Proof.Machine

section
variable {s : State}

/-! ### The active tick by its arm -/

theorem execSymFire_rtty (hl : s.stall = none) (hs : s.schEn = true) (ht : s.tog = true) (hx : s.txs = .rtty) :
    execSymFire s = .next (modulateThen (rttyBit s.cfg s.rbyte s.pos) s rttyAdvance) := by
  rw [execSymFire_of_tog hl hs ht, activeTick, hx, rttyArm]

theorem execSymFire_binary (hl : s.stall = none) (hs : s.schEn = true) (ht : s.tog = true) (hx : s.txs = .binary) :
    execSymFire s = binaryArm s := by
  rw [execSymFire_of_tog hl hs ht, activeTick, hx]

/-- The bit of R101 as the statements write it. -/
theorem eq_maskedBit {x mask : Byte} {b : Bool} (h : b = true ↔ x &&& mask ≠ 0) : b = maskedBit x mask :=
  Bool.eq_iff_iff.2 (h.trans bne_iff_ne.symm)

/-! ### Which tick is not the final one -/

theorem lastPosition_eq_false {c : Config} {pos : BitVec 4} (h : pos.toNat ≠ c.rttyBits + c.rttyStop) :
    lastPosition c pos = false := beq_false_of_ne h

theorem lastBit_eq_false {rem : Word16} (h : rem ≠ 1) : lastBit rem = false :=
  Bool.eq_false_iff.2 (mt lastBit_iff.1 h)

/-! ### The binary arm by its checks, V4 before V5 (R154; log 14) -/

theorem binaryArm_outside (hr : s.region.contains s.ptr.toNat = false) :
    binaryArm s = .fault (.bufferOverrun s.ptr) := by
  rw [binaryArm, if_neg (by simp [hr])]

section
variable {x : Byte} (hr : s.region.contains s.ptr.toNat = true) (hread : Memory.read s.mem s.ptr.toNat = some x)
include hr hread

theorem binaryArm_wrap (hp : s.mask = 1 ∧ s.ptr = 0xFFFF) : binaryArm s = .fault (.pointerWrap s.ptr) := by
  have hp' : s.mask = 0x01 ∧ s.ptr = 0xFFFF := hp
  simp only [binaryArm, if_pos hr, hread, if_pos hp']

theorem binaryArm_inside (hp : ¬ (s.mask = 1 ∧ s.ptr = 0xFFFF)) :
    binaryArm s = .next (modulateThen (maskedBit x s.mask) s binaryAdvance) := by
  have hp' : ¬ (s.mask = 0x01 ∧ s.ptr = 0xFFFF) := hp
  simp only [binaryArm, if_pos hr, hread, if_neg hp']

end

/-! ### A bus that completes `k < 3` more transfers -/

section
variable {k : Nat} (hb : s.bus = some k) (hk : k < 3)
include hb hk

theorem transact_stalled (b0 b1 b2 : Byte) (after : State → State) :
    transact b0 b1 b2 s after = hungAfter k [b0, b1, b2] s := by
  simp only [transact, hb, if_neg (Nat.not_le.2 hk)]
  rfl

theorem dacWriteThen_stalled (ch : ChannelId) (v : Word16) (after : State → State) :
    dacWriteThen ch v s after = hungAfter k (frameBytes ch v) s := transact_stalled hb hk _ _ _ _

theorem dacOffFrame_stalled : dacOffFrame s = hungAfter k [0x4F, 0x00, 0x00] s := transact_stalled hb hk _ _ _ _

/-- In FSK mode the tick's symbol is out before its frame hangs (R103). -/
theorem modulateThen_stalled (hm : s.mode = .fsk) (b : Bool) (after : State → State) :
    modulateThen b s after = hungAfter k (frameBytes s.cfg.chFine (if b then s.cfg.fskShift else 0x0000))
      { s with trace := s.trace ++ [.sym b] } := by
  have hb' : (emit [.sym b] s).bus = some k := hb
  rw [modulateThen_fsk hm, dacWriteThen_stalled hb' hk]
  rfl

end

/-! ### The frames that arrive by themselves (log 4) -/

/-- `DACWR` of a legal channel is the host's `DAC_WRITE`. -/
theorem exec_dacwr_eq_dacWrite {ch : ChannelId} (h : ch = s.cfg.chCoarse ∨ ch = s.cfg.chFine) (v : Word16) :
    exec (.dacwr ch v) s = exec (.dacWrite ch v) s := by
  rw [← channelLegal_iff] at h
  simp only [exec, execDacwr, execDacWrite, if_pos h]

/-- `DACOFF` is the host's `DAC_OFF`. -/
theorem exec_dacoff_eq_dacOff : exec .dacoff s = exec .dacOff s := rfl

/-! ### A working sample fire -/

theorem advance_stepOf_lt_period {c : Config} {p : Byte} (hc : configOk c = true) (hp : p.toNat < c.period)
    (tone : Bool) : (advance c p (stepOf c tone)).toNat < c.period := by
  have hstep := stepOf_le_half hc tone
  obtain ⟨-, -, hhalf, hmax, -⟩ := (configOk_iff c).1 hc
  have hperiod : c.period = 2 * c.half := rfl
  rw [advance_toNat (by omega) hp (by omega)]
  exact Nat.mod_lt _ (by omega)

theorem execSmpFire_working {mag : Byte} (hl : s.stall = none) (hm : s.mode = .afsk) (hsyn : s.synEn = true)
    (hmag : magnitude s.cfg (advance s.cfg s.phase (stepOf s.cfg s.tone)) = some mag) :
    execSmpFire s = .next (dacWriteThen s.cfg.chFine (sampleWord mag) s
      (fun t => { t with phase := advance s.cfg s.phase (stepOf s.cfg s.tone) })) := by
  have hrun : synthRunning s = true := synthRunning_iff.2 ⟨hm, hsyn⟩
  simp [execSmpFire, hl, hrun, sampleTick, hmag]

end

/-- Settles O20: on a ready bus the modulator's frame is whole (R103), and the arm then completes the character at its
last position or moves on to the next (R102, R105). -/
theorem rttyTickSendsPosition : Obligations.RttyTickSendsPosition := by
  intro s b hl hs ht hx hb hbit
  have hbit : b = rttyBit s.cfg s.rbyte s.pos := hbit
  rw [exec, execSymFire_rtty hl hs ht hx, ← hbit, modulateThen_ready hb, rttyAdvance_eq]
  refine ⟨fun hpos => ?_, fun hpos => ?_⟩
  · simp [lastPosition_iff.2 hpos]
  · simp [lastPosition_eq_false hpos]

/-- Settles O21: on a ready bus the modulator's frame is whole (R103), and each of R28's rows is one reading of the
arm's register writes, by the mask and by the counter. -/
theorem binaryTickSendsMaskedBit : Obligations.BinaryTickSendsMaskedBit := by
  intro s x b hl hs ht hx hb hr hread hbit
  have hfire (hp : ¬ (s.mask = 1 ∧ s.ptr = 0xFFFF)) :
      exec .symFire s = .next (binaryAdvance (modulated b s)) := by
    rw [exec, execSymFire_binary hl hs ht hx, binaryArm_inside hr hread hp, ← eq_maskedBit hbit,
      modulateThen_ready hb]
  rw [binaryAdvance_eq] at hfire
  refine ⟨fun (hm : s.mask ≠ 1#8) hrem => ?_, fun (hm : s.mask ≠ 1#8) hrem => ?_, fun hm hp hrem => ?_,
    fun hm hp hrem => ?_⟩
  · rw [hfire (fun h => hm h.1)]
    simp [hm, lastBit_eq_false hrem]
  · rw [hfire (fun h => hm h.1)]
    simp [hm, hrem, lastBit_iff.2]
  · rw [hfire (fun h => hp h.2)]
    simp [hm, lastBit_eq_false hrem]
  · rw [hfire (fun h => hp h.2)]
    simp [hm, hrem, lastBit_iff.2]

/-- Settles O34: each caller's gate is open, its frame hangs in the one bus transaction they share, and what the caller
had still to do is left undone. -/
theorem stalledBusHangsWriter : Obligations.StalledBusHangsWriter := by
  intro s k hl hb hk
  refine ⟨fun ch v hch hidle hfree => ?_, fun hidle hfree => ?_, fun b hm hs ht => ⟨fun hx hbit => ?_, ?_⟩,
    fun hc hp hm hsyn => ?_⟩
  · rw [exec_dacwr_eq_dacWrite hch, and_self, exec_dacWrite_of_legal hl hch, whenBusFree_of_free hidle hfree,
      dacWriteThen_stalled hb hk]
  · rw [exec_dacoff_eq_dacOff, and_self, exec_dacOff_of_live hl, whenBusFree_of_free hidle hfree,
      dacOffFrame_stalled hb hk]
  · have hbit : b = rttyBit s.cfg s.rbyte s.pos := hbit
    rw [exec, execSymFire_rtty hl hs ht hx, ← hbit, modulateThen_stalled hb hk hm]
  · intro x hx hr hread hp hbit
    rw [exec, execSymFire_binary hl hs ht hx, binaryArm_inside hr hread hp, ← eq_maskedBit hbit,
      modulateThen_stalled hb hk hm]
  · obtain ⟨mag, hmag⟩ := magnitude_isSome hc (advance_stepOf_lt_period hc hp s.tone)
    refine ⟨mag, hmag, ?_⟩
    rw [exec, execSmpFire_working hl hm hsyn hmag, dacWriteThen_stalled hb hk, sampleWord]

/-- Settles O19, by the two gates of the fire (R99). -/
theorem symFireMaskedOrInactive : Obligations.SymFireMaskedOrInactive := fun _ hl =>
  ⟨execSymFire_of_schEn_false, execSymFire_of_tog_false hl⟩

/-- Settles O22: the arm's checks in their order; the invariant gives the byte of the declared buffer its value. -/
theorem binaryTickViolations : Obligations.BinaryTickViolations := by
  intro s hinv hl hs ht hx
  rw [exec, execSymFire_binary hl hs ht hx]
  refine ⟨binaryArm_outside, fun hr hm hp => ?_, fun hr hp => ?_⟩
  · obtain ⟨x, hread⟩ := Option.isSome_iff_exists.1 (hinv.regionWritten _ hr)
    exact binaryArm_wrap hr hread ⟨hm, hp⟩
  · obtain ⟨x, hread⟩ := Option.isSome_iff_exists.1 (hinv.regionWritten _ hr)
    exact ⟨_, binaryArm_inside hr hread hp⟩

end Sys2Proof.Machine
end

section
/-! The tone synthesizer's arithmetic (spec/42_tone_synth.md R115, R116, R119; spec/20_memory.md R45), and the sample
fire: working, bypassed or masked (R113, R120). -/

namespace Sys2Proof.Machine

/-! ### The phase -/

section
variable {c : Config} {p step : Byte}

/-- In a legal configuration `Advance` by a legal step is addition modulo PERIOD (R115). -/
theorem advance_toNat_of_configOk (hc : configOk c = true) (hp : p.toNat < c.period) (hs : step.toNat ≤ c.half) :
    (advance c p step).toNat = (p.toNat + step.toNat) % c.period := by
  obtain ⟨-, -, -, hhalf, -⟩ := (configOk_iff c).1 hc
  have hperiod : c.period = 2 * c.half := rfl
  exact advance_toNat (by omega) hp (by omega)

/-- `n` advances by one step add `n * step` modulo PERIOD. -/
theorem advance_iterate_toNat (hc : configOk c = true) (hp : p.toNat < c.period) (hs : step.toNat ≤ c.half) (n : Nat) :
    ((fun q => advance c q step)^[n] p).toNat = (p.toNat + n * step.toNat) % c.period := by
  induction n with
  | zero => simp [Nat.mod_eq_of_lt hp]
  | succ n ih =>
    have hlt : ((fun q => advance c q step)^[n] p).toNat < c.period := ih ▸ Nat.mod_lt _ (by omega)
    rw [Function.iterate_succ_apply', advance_toNat_of_configOk hc hlt hs, ih, Nat.mod_add_mod, Nat.succ_mul,
      Nat.add_assoc]

end

/-- Settles O26: the bound of R115 on the step is what one subtraction needs. -/
theorem advanceIsModularSum : Obligations.AdvanceIsModularSum := fun _ _ _ hc hp _ hs =>
  advance_toNat_of_configOk hc hp hs

/-- Settles O29: so many advances add a multiple of PERIOD. -/
theorem phaseReturns : Obligations.PhaseReturns := by
  intro c p step hc hp _ hs
  have hsum : c.period / Nat.gcd step.toNat c.period * step.toNat =
      c.period * (step.toNat / Nat.gcd step.toNat c.period) := by
    rw [Nat.div_mul_right_comm (Nat.gcd_dvd_right _ _), Nat.mul_div_assoc _ (Nat.gcd_dvd_left _ _)]
  apply BitVec.eq_of_toNat_eq
  rw [advance_iterate_toNat hc hp hs, hsum, Nat.add_mul_mod_self_left, Nat.mod_eq_of_lt hp]

/-! ### The magnitude -/

section
variable {c : Config}

/-- A ROM index of a legal configuration has its entry, at most MAX_MAG (R6, R45). -/
theorem sineRom_entry (hc : configOk c = true) {i : Nat} (hi : i < c.half) :
    ∃ r, c.sineRom[i]? = some r ∧ r.toNat ≤ c.maxMag.toNat := by
  obtain ⟨-, -, -, -, hrom, hmax, -⟩ := (configOk_iff c).1 hc
  have hi : i < c.sineRom.length := hrom ▸ hi
  exact ⟨c.sineRom[i], List.getElem?_eq_getElem hi, hmax _ (List.getElem_mem hi)⟩

theorem magnitude_of_lt_half {p : Byte} (h : p.toNat < c.half) : magnitude c p = c.sineRom[p.toNat]? := if_pos h

theorem magnitude_of_half_le {p : Byte} (h : c.half ≤ p.toNat) :
    magnitude c p = (c.sineRom[p.toNat - c.half]?).map (fun r => c.maxMag - r) := if_neg (Nat.not_lt.2 h)

end

/-- Settles O27: the phase, or the phase less HALF, is a ROM index, and no entry exceeds MAX_MAG. -/
theorem magnitudeBySymmetry : Obligations.MagnitudeBySymmetry := by
  intro c p hc hp
  have hperiod : c.period = 2 * c.half := rfl
  refine ⟨fun hlow => ?_, fun hhigh => ?_⟩
  · obtain ⟨r, hr, hle⟩ := sineRom_entry hc hlow
    exact ⟨r, hr, by rw [magnitude_of_lt_half hlow, hr], hle⟩
  · obtain ⟨r, hr, hle⟩ := sineRom_entry hc (i := p.toNat - c.half) (by omega)
    exact ⟨r, c.maxMag - r, hr, by rw [magnitude_of_half_le hhigh, hr, Option.map_some], hle,
      BitVec.toNat_sub_of_le hle⟩

/-- Settles O28: by O27 both phases read the same ROM entry, the upper one reflected. -/
theorem waveformReflects : Obligations.WaveformReflects := by
  intro c p q x y hc hp hq hx hy
  have hperiod : c.period = 2 * c.half := rfl
  obtain ⟨r, hr, hmag, hle⟩ := (magnitudeBySymmetry c p hc (by omega)).1 hp
  obtain ⟨r', m, hr', hmag', -, hm⟩ := (magnitudeBySymmetry c q hc (by omega)).2 (by omega)
  have hindex : q.toNat - c.half = p.toNat := by omega
  have hxr : x = r := Option.some.inj (hx.symm.trans hmag)
  have hym : y = m := Option.some.inj (hy.symm.trans hmag')
  have hrr : r' = r := Option.some.inj (hr'.symm.trans (hindex ▸ hr))
  rw [hxr, hym, hm, hrr, Nat.sub_add_cancel hle]

/-! ### The sample fire -/

/-- Settles O23: the advanced phase is inside the period, so that it has a magnitude, and on a ready bus the frame of
its word is whole. -/
theorem sampleFireWritesMagnitude : Obligations.SampleFireWritesMagnitude := by
  intro s hc hp hm hsyn hb
  obtain ⟨mag, hmag⟩ := magnitude_isSome hc (advance_stepOf_lt_period hc hp s.tone)
  refine ⟨mag, hmag, ?_⟩
  rw [exec, execSmpFire_working hb.1 hm hsyn hmag, dacWriteThen_ready hb, sampleWord, stepOf]

/-- Settles O24: the gate on `MODE` is closed, and the sample fire is the one writer of `PHASE` beside the reset
(O42). -/
theorem sampleFireBypassed : Obligations.SampleFireBypassed := by
  intro s hm
  refine ⟨execSmpFire_of_fsk hm, fun i t hr h => ?_⟩
  obtain ⟨-, -, hphase, -⟩ := registersChangeOnlyByTheirWriters i s t h hr
  rcases hphase with hsame | rfl
  · exact hsame
  · rw [execSmpFire_fsk hm h]

theorem execSmpFire_of_synEn_false {s : State} (h : s.synEn = false) : execSmpFire s = .next s := by
  have hrun : synthRunning s = false := by simp [synthRunning, h]
  simp [execSmpFire, hrun]

/-- Settles O25, by the gate on `SYN_EN` (D17). -/
theorem sampleFireMasked : Obligations.SampleFireMasked := fun _ => execSmpFire_of_synEn_false

end Sys2Proof.Machine
end

section
/-! What an operation adds to the trace (spec/43_dac_writer.md R124 to R128, R132, R155): whole frames only, or one cut
short by a hang, which is all that the operation then does; and the writer's two frames, gate by gate (log 4, log 10). -/

namespace Sys2Proof.Machine

/-! ### Whole frames -/

/-- A symbol's events are a whole step (R103). -/
theorem wholeStep_symbolEvents (c : Config) (mode : Mode) (b : Bool) : wholeStep (symbolEvents c mode b) = true := by
  cases mode <;> rfl

/-- So are they with the watchdog strobe after them (R106). -/
theorem wholeStep_symbolEvents_strobe (c : Config) (mode : Mode) (b : Bool) :
    wholeStep (symbolEvents c mode b ++ [.wdtKick]) = true := by
  cases mode <;> rfl

/-- From `s` to `t` no transaction hangs, and whole frames alone reach the bus (R127, R132). -/
structure SentWhole (s t : State) : Prop where
  stall : s.stall = none → t.stall = none
  trace : ∃ events, t.trace = s.trace ++ events ∧ wholeStep events = true

namespace SentWhole

variable {s t : State}

/-- An operation that emits nothing. -/
theorem silent (hstall : t.stall = s.stall) (htrace : t.trace = s.trace) : SentWhole s t :=
  ⟨hstall.trans, [], by rw [htrace, List.append_nil], rfl⟩

theorem wrote (s : State) (ch : ChannelId) (v : Word16) : SentWhole s (wrote ch v s) :=
  ⟨id, writeEvents ch v, rfl, rfl⟩

theorem poweredOff (s : State) : SentWhole s (poweredOff s) := ⟨id, offEvents, rfl, rfl⟩

theorem reset (s : State) : SentWhole s { resetRegisters (endStall s) with script := [], bufferHeld := [] } :=
  ⟨fun _ => endStall_stall s, [], by simp, rfl⟩

theorem sampled (s : State) (v : Word16) : SentWhole s (sampled v s) :=
  ⟨id, writeEvents s.cfg.chFine v, rfl, rfl⟩

theorem rttyTick (s : State) (b : Bool) : SentWhole s (rttyAdvance (modulated b s)) := by
  rw [rttyAdvance_eq]
  exact ⟨(modulated_stall s b).trans, _, modulated_trace s b, wholeStep_symbolEvents s.cfg s.mode b⟩

/-- At the end of a byte the strobe comes last (R101, R106). -/
theorem binaryTick (s : State) (b : Bool) : SentWhole s (binaryAdvance (modulated b s)) := by
  rw [binaryAdvance_eq]
  refine ⟨(modulated_stall s b).trans, ?_⟩
  by_cases hm : s.mask = 1
  · refine ⟨_, ?_, wholeStep_symbolEvents_strobe s.cfg s.mode b⟩
    simp only [modulated_mask, if_pos hm, modulated_trace, List.append_assoc]
  · refine ⟨_, ?_, wholeStep_symbolEvents s.cfg s.mode b⟩
    simp only [modulated_mask, if_neg hm, modulated_trace]

end SentWhole

/-! ### A frame cut short -/

/-- From `s` to `t` a transaction hangs after the bytes `sent`, and nothing else happens but the tick's symbol before it
(R128, R155). -/
structure CutShort (sent : List Byte) (s t : State) : Prop where
  live : s.stall = none
  stall : t.stall = some sent
  registers : t.registers = s.registers
  dac : t.dac = s.dac
  mem : t.mem = s.mem
  trace : ∃ events, t.trace = s.trace ++ events ∧ cutStep sent events

section
variable {s : State} {k : Nat} (hl : s.stall = none) (hk : k < 3) (b0 b1 b2 : Byte)
include hl hk

theorem cutShort_hungFrame : CutShort ([b0, b1, b2].take k) s (hungFrame k b0 b1 b2 s) :=
  ⟨hl, rfl, rfl, rfl, rfl, _, rfl, by rw [List.length_take]; omega, .inl rfl⟩

theorem cutShort_symbol_hungFrame (b : Bool) :
    CutShort ([b0, b1, b2].take k) s (hungFrame k b0 b1 b2 (emit [.sym b] s)) :=
  ⟨hl, rfl, rfl, rfl, rfl, _, List.append_assoc _ _ _, by rw [List.length_take]; omega, .inr ⟨b, rfl⟩⟩

end

/-! ### Every operation does the one or the other -/

/-- Whole frames only, or one cut short by a hang. -/
def SentWholeOrCut (s t : State) : Prop := SentWhole s t ∨ ∃ sent, CutShort sent s t

section
variable {s t : State}

theorem sentWholeOrCut_of_sentOrHung {b0 b1 b2 : Byte} {whole : State} (hl : s.stall = none)
    (hw : SentWhole s whole) (h : SentOrHung b0 b1 b2 s whole t) : SentWholeOrCut s t := by
  rcases h with rfl | ⟨k, hk, -, rfl⟩
  · exact .inl hw
  · exact .inr ⟨_, cutShort_hungFrame hl hk b0 b1 b2⟩

theorem sentWholeOrCut_modulateThen {b : Bool} {after : State → State} (hl : s.stall = none)
    (hw : SentWhole s (after (modulated b s))) : SentWholeOrCut s (modulateThen b s after) := by
  rcases modulateThen_cases b s after with ht | ⟨k, hk, -, -, ht⟩
  · rw [ht]; exact .inl hw
  · rw [ht]; exact .inr ⟨_, cutShort_symbol_hungFrame hl hk _ _ _ b⟩

theorem execSymFire_sentWholeOrCut (h : execSymFire s = .next t) : SentWholeOrCut s t := by
  rcases execSymFire_cases h with
    ⟨rfl, -⟩ | ⟨hl, -, ⟨-, rfl⟩ | ⟨-, -, rfl⟩ | ⟨-, -, rfl⟩ | ⟨-, -, -, -, x, -, rfl⟩⟩
  · exact .inl (.silent rfl rfl)
  · exact .inl (.silent rfl rfl)
  · exact .inl (.silent rfl rfl)
  · exact sentWholeOrCut_modulateThen hl (.rttyTick s _)
  · exact sentWholeOrCut_modulateThen hl (.binaryTick s _)

theorem execSmpFire_sentWholeOrCut (h : execSmpFire s = .next t) : SentWholeOrCut s t := by
  rcases execSmpFire_cases h with ⟨rfl, -⟩ | ⟨hl, -, -, mag, -, rfl⟩
  · exact .inl (.silent rfl rfl)
  · exact sentWholeOrCut_of_sentOrHung hl (.sampled s (sampleWord mag)) (dacWriteThen_cases _ _ _ _)

theorem exec_sentWholeOrCut {i : Instr} (h : exec i s = .next t) : SentWholeOrCut s t := by
  have hn := exec_next h
  cases i with
  | setFsk | setAfsk | setBaud | rttySend => obtain ⟨-, -, rfl⟩ := hn; exact .inl (.silent rfl rfl)
  | binSend base n => obtain ⟨-, -, -, rfl⟩ := hn; exact .inl (.silent rfl rfl)
  | rdStatus => obtain ⟨-, rfl⟩ := hn; exact .inl (.silent rfl rfl)
  | symFire => exact execSymFire_sentWholeOrCut hn
  | smpFire => exact execSmpFire_sentWholeOrCut hn
  | reset => rw [hn]; exact .inl (.reset s)
  | dacWrite ch v => obtain ⟨hl, -, -, -, hsent⟩ := hn; exact sentWholeOrCut_of_sentOrHung hl (.wrote s ch v) hsent
  | dacwr ch v => obtain ⟨hl, -, -, -, hsent⟩ := hn; exact sentWholeOrCut_of_sentOrHung hl (.wrote s ch v) hsent
  | dacOff => obtain ⟨hl, -, -, hsent⟩ := hn; exact sentWholeOrCut_of_sentOrHung hl (.poweredOff s) hsent
  | dacoff => obtain ⟨hl, -, -, hsent⟩ := hn; exact sentWholeOrCut_of_sentOrHung hl (.poweredOff s) hsent

end

/-- Settles O33: an operation that completes leaves no hang behind, and one cut short has done nothing else. -/
theorem hungTransactionWritesNoRegister : Obligations.HungTransactionWritesNoRegister := by
  intro i s t sent hl h hhung
  rcases exec_sentWholeOrCut h with hwhole | ⟨sent', hcut⟩
  · cases (hwhole.stall hl).symm.trans hhung
  · cases hcut.stall.symm.trans hhung
    exact ⟨hcut.registers, hcut.dac, hcut.mem, hcut.trace⟩

/-! ### Every arrival -/

/-- What a step may add to the trace (R127, R132). It reads the records and the hang alone, so that it holds as well
from a state that differs elsewhere. -/
def AddsFrames (s t : State) : Prop :=
  ∃ events, t.trace = s.trace ++ events ∧
    (wholeStep events = true ∨ (s.stall = none ∧ ∃ sent, t.stall = some sent ∧ cutStep sent events))

namespace AddsFrames

variable {s t : State}

theorem silent (h : t.trace = s.trace) : AddsFrames s t := ⟨[], by rw [h, List.append_nil], .inl rfl⟩

theorem exec {i : Instr} (h : exec i s = .next t) : AddsFrames s t := by
  rcases exec_sentWholeOrCut h with hwhole | ⟨sent, hcut⟩
  · obtain ⟨events, htrace, hevents⟩ := hwhole.trace
    exact ⟨events, htrace, .inl hevents⟩
  · obtain ⟨events, htrace, hevents⟩ := hcut.trace
    exact ⟨events, htrace, .inr ⟨hcut.live, sent, hcut.stall, hevents⟩⟩

theorem deliverWire {w : Wire} (h : deliverWire w s = .next t) : AddsFrames s t := by
  cases hd : decode w with
  | ok i => rw [deliverWire_of_decode hd] at h; exact exec h
  | error e =>
    simp only [Machine.deliverWire, hd] at h
    rw [eq_of_rejectWire_next h]
    exact silent rfl

theorem hostPoll {ends : StWord → Bool} {rest : List HostOp} (h : hostPoll ends rest s = .next t) :
    AddsFrames s t := by
  obtain ⟨u, hu, rfl⟩ := hostPoll_eq_next.1 h
  have polled := exec hu
  split
  · exact polled
  · exact polled

theorem hostTurn (h : hostTurn s = .next t) : AddsFrames s t := by
  unfold Machine.hostTurn at h
  split at h
  · cases h; exact silent rfl
  · have popped := exec h
    exact popped
  · exact hostPoll h
  · exact hostPoll h
  · cases h; exact silent rfl

theorem deliver {a : Arrival} (h : deliver a s = .next t) : AddsFrames s t := by
  cases a with
  | wire w => exact deliverWire h
  | busAnswer completes => cases h; exact silent rfl
  | declareBuffer start bytes =>
    obtain ⟨-, -, -, rfl⟩ := declareBuffer_eq_next.1 (whenLive_eq_next.1 h).2
    exact silent rfl
  | poke addr x =>
    obtain ⟨-, rfl⟩ := hostPoke_eq_next.1 (whenLive_eq_next.1 h).2
    exact silent rfl
  | call c =>
    obtain ⟨ops, -, rfl⟩ := hostCall_eq_next.1 (whenLive_eq_next.1 h).2
    exact silent rfl
  | hostTurn => exact hostTurn (whenLive_eq_next.1 h).2

end AddsFrames

/-- Settles O37: a frame comes from an operation, which sends it whole or hangs in it, and no other arrival emits. -/
theorem stepsEmitWholeFrames : Obligations.StepsEmitWholeFrames := by
  intro s t h
  unfold step cycle at h
  split at h
  · obtain ⟨-, h⟩ := whenConfigOk_eq_next.1 h
    cases h
    exact AddsFrames.silent rfl
  · obtain ⟨-, h⟩ := whenConfigOk_eq_next.1 h
    have taken := AddsFrames.deliver h
    exact taken

/-! ### While a transaction hangs -/

section
variable {s : State}

theorem execSymFire_of_hung {sent : List Byte} (h : s.stall = some sent) : execSymFire s = .next s := by
  simp [execSymFire, h]

theorem execSmpFire_of_hung {sent : List Byte} (h : s.stall = some sent) : execSmpFire s = .next s := by
  simp [execSmpFire, h]

/-- The host and the writer have the gate of R128. -/
theorem exec_of_hung {sent : List Byte} (h : s.stall = some sent) {i : Instr} (hsym : i ≠ .symFire)
    (hsmp : i ≠ .smpFire) (hreset : i ≠ .reset) : exec i s = .fault (.busStall sent) := by
  cases i with
  | symFire => exact absurd rfl hsym
  | smpFire => exact absurd rfl hsmp
  | reset => exact absurd rfl hreset
  | setFsk | setAfsk | setBaud | rttySend | binSend | dacWrite | dacOff | rdStatus | dacwr | dacoff =>
    exact whenLive_of_hung h _

end

/-- Settles O35: the fires are lost, the gate of R128 stops the others, and a reset writes the registers of R40 and
ends the hang. -/
theorem onlyResetLeavesHang : Obligations.OnlyResetLeavesHang := fun s _ hs =>
  ⟨execSymFire_of_hung hs, execSmpFire_of_hung hs, fun _ => exec_of_hung hs,
    _, rfl, endStall_stall s, rfl, endStall_trace s, endStall_mem s⟩

/-! ### The writer's two frames -/

/-- A write frame's encoding is the three bytes that the writer sends (R70, R124). -/
theorem encode_dacwr (ch : ChannelId) (v : Word16) :
    encode (.dacwr ch v) = .df (writeCommandByte ch ++ hiByte v ++ loByte v) := by
  have hbytes : (writeCommandByte ch ++ hiByte v ++ loByte v : DfWord) =
      writeCommandByte ch ++ (hiByte v ++ loByte v) := BitVec.append_assoc
  rw [hbytes, hiByte_append_loByte, writeCommandByte_nibbles, encode]

/-- Settles O30: the frame of a legal channel is the host's `DAC_WRITE` (O15), and a foreign channel's is refused. -/
theorem writeFrameOnBus : Obligations.WriteFrameOnBus := by
  intro s ch v hl
  obtain ⟨hfree, hbusy, -⟩ := dacWriteSendsWord s ch v hl
  refine ⟨encode_dacwr ch v, fun hch => ?_, fun hch => ?_, fun hcoarse hfine => ?_⟩
  · rw [exec_dacwr_eq_dacWrite hch]; exact hfree hch
  · rw [exec_dacwr_eq_dacWrite hch]; exact hbusy hch
  · exact exec_dacwr_of_foreign s hl (not_or.2 ⟨hcoarse, hfine⟩) v

/-- Settles O31: the frame is the host's `DAC_OFF` (O16), which writes no register. -/
theorem powerOffFrameOnBus : Obligations.PowerOffFrameOnBus := by
  intro s hl
  obtain ⟨hfree, hbusy⟩ := dacOffSendsPowerOff s hl
  exact ⟨fun hidle hsynth hready => ⟨hfree hidle hsynth hready, rfl⟩, hbusy⟩

end Sys2Proof.Machine
end

section
/-! The host's checksum and its digits (spec/44_host_sequences.md R138, R139): the update of a byte as a linear map, and
a digit read back. -/

namespace Sys2Proof.Machine

/-! ### The update of a byte -/

/-- The top bit, which says whether the polynomial is added, is linear, and the polynomial cancels itself. -/
theorem crcShift_xor (x y : Word16) : crcShift (x ^^^ y) = crcShift x ^^^ crcShift y := by
  have hcancel (a b p : Word16) : (a ^^^ p) ^^^ (b ^^^ p) = a ^^^ b := by
    rw [BitVec.xor_comm b, BitVec.xor_assoc, ← BitVec.xor_assoc p, BitVec.xor_self, BitVec.zero_xor]
  unfold crcShift
  rw [BitVec.getLsbD_xor, BitVec.shiftLeft_xor_distrib]
  cases x.getLsbD 15 <;> cases y.getLsbD 15
  case false.false => rfl
  case false.true => exact BitVec.xor_assoc _ _ _
  case true.false => simp; ac_rfl
  case true.true => exact (hcancel _ _ _).symm

theorem crcShifts_xor (n : Nat) (x y : Word16) : crcShifts n (x ^^^ y) = crcShifts n x ^^^ crcShifts n y := by
  induction n generalizing x y with
  | zero => rfl
  | succ n ih => simp only [crcShifts, crcShift_xor, ih]

theorem crcShift_of_topClear {x : Word16} (h : x.getLsbD 15 = false) : crcShift x = x <<< 1 := by
  rw [crcShift, h, if_neg Bool.false_ne_true]

/-- While no bit leaves at the top, the polynomial is not added. -/
theorem crcShifts_of_topClear (n : Nat) {x : Word16} (h : ∀ i, 16 ≤ i + n → x.getLsbD i = false) :
    crcShifts n x = x <<< n := by
  induction n generalizing x with
  | zero => exact (BitVec.shiftLeft_zero x).symm
  | succ n ih =>
    have hshifted : ∀ i, 16 ≤ i + n → (x <<< 1).getLsbD i = false := by
      intro i hi
      cases i with
      | zero => simp
      | succ i => simp [h i (by omega)]
    rw [crcShifts, crcShift_of_topClear (h 15 (by omega)), ih hshifted, ← BitVec.shiftLeft_add, Nat.add_comm]

/-- No bit of a low byte leaves at the top in the eight shifts. -/
theorem crcShifts_loByte (crc : Word16) : crcShifts 8 ((loByte crc).setWidth 16) = crc <<< 8 := by
  have htop : ∀ i, 16 ≤ i + 8 → ((loByte crc).setWidth 16 : Word16).getLsbD i = false := fun i hi => by
    rw [BitVec.getLsbD_setWidth, BitVec.getLsbD_of_ge _ _ (by omega), Bool.and_false]
  rw [crcShifts_of_topClear 8 htop]
  apply BitVec.eq_of_getLsbD_eq
  intro i hi
  by_cases h : i < 8
  · simp [h]
  · have hlow : i - 8 < 8 ∧ i - 8 < 16 := by omega
    simp [loByte, h, hlow]

/-- The new byte meets the high byte alone. -/
theorem crcInput_split (crc : Word16) (byte : Byte) :
    crc ^^^ (byte.setWidth 16 <<< 8) = ((hiByte crc ^^^ byte).setWidth 16 <<< 8) ^^^ (loByte crc).setWidth 16 := by
  apply BitVec.eq_of_getLsbD_eq
  intro i hi
  simp only [hiByte, loByte, BitVec.getLsbD_xor, BitVec.getLsbD_shiftLeft, BitVec.getLsbD_setWidth,
    BitVec.getLsbD_extractLsb']
  by_cases h : i < 8
  · simp [h, hi]
  · have hhigh : i - 8 < 8 ∧ i - 8 < 16 := by omega
    simp [h, hi, hhigh, Nat.add_sub_of_le (not_lt.1 h)]

/-- An entry of the table. -/
theorem crc16Step_zero (x : Byte) : crc16Step 0x0000 x = crcShifts 8 (x.setWidth 16 <<< 8) :=
  congrArg (crcShifts 8) BitVec.zero_xor

/-- Settles O49: the shifts are linear, so that the high byte with the new one and the low byte go through them apart,
the low byte without the polynomial. -/
theorem crc16StepByTable : Obligations.Crc16StepByTable := by
  refine ⟨by decide, fun x y => ?_, fun crc byte => ?_⟩
  · simp only [crc16Step_zero, BitVec.setWidth_xor, BitVec.shiftLeft_xor_distrib, crcShifts_xor]
  · rw [crc16Step, crcInput_split, crcShifts_xor, crcShifts_loByte, BitVec.xor_comm, crc16Step_zero, hiByte]

/-! ### The digits -/

/-- The two ranges of R138: `0` to `9` from 0x30, and `A` to `F` from 0x41. -/
theorem hexDigit_toNat (d : BitVec 4) :
    (hexDigit d).toNat = if d.toNat < 10 then 0x30 + d.toNat else 0x41 + (d.toNat - 10) := by
  have hd := d.isLt
  unfold hexDigit
  split <;> simp <;> omega

theorem hexValue_hexDigit (d : BitVec 4) : hexValue (hexDigit d) = some d.toNat := by
  have hd := d.isLt
  rw [hexValue, hexDigit_toNat]
  by_cases h : d.toNat < 10
  · rw [if_pos h, if_pos (by omega), Nat.add_sub_cancel_left]
  · rw [if_neg h, if_neg (by omega), if_pos (by omega), Nat.add_sub_cancel_left, Nat.sub_add_cancel (by omega)]

theorem toNat_eq_nibbles (c : Word16) :
    c.toNat = 4096 * (c.extractLsb' 12 4).toNat + 256 * (c.extractLsb' 8 4).toNat + 16 * (c.extractLsb' 4 4).toNat +
      (c.extractLsb' 0 4).toNat := by
  have hc := c.isLt
  simp only [BitVec.extractLsb'_toNat, Nat.shiftRight_eq_div_pow]
  omega

/-- Settles O51: each digit of the suffix reads back as its nibble. -/
theorem suffixSpellsChecksum : Obligations.SuffixSpellsChecksum := fun c =>
  ⟨_, _, _, _, rfl, _, _, _, _, hexValue_hexDigit _, hexValue_hexDigit _, hexValue_hexDigit _, hexValue_hexDigit _,
    toNat_eq_nibbles c⟩

/-- NUL is no digit. -/
theorem hexDigit_ne_nul (d : BitVec 4) : hexDigit d ≠ 0x00 := by
  intro hnul
  have hread := hexValue_hexDigit d
  rw [hnul] at hread
  exact absurd hread (by simp [hexValue])

theorem checksumSuffix_ne_nul (c : Word16) : ∀ x ∈ checksumSuffix c, x ≠ 0x00 := by
  simpa [checksumSuffix] using ⟨hexDigit_ne_nul _, hexDigit_ne_nul _, hexDigit_ne_nul _, hexDigit_ne_nul _⟩

end Sys2Proof.Machine
end

section
/-! What a call of the host and a turn of it do (spec/44_host_sequences.md R133 to R142; log 12), and what the checksum
of a text is taken over (R136, R140). -/

namespace Sys2Proof.Machine

/-! ### A call -/

section
variable {s : State}

theorem deliver_call_of_expansion (hl : s.stall = none) {c : HostCall} {ops : List HostOp}
    (h : hostExpansion s.cfg c = some ops) : deliver (.call c) s = .next { s with script := s.script ++ ops } := by
  rw [deliver, whenLive_of_live hl]
  exact hostCall_eq_next.2 ⟨ops, h, rfl⟩

theorem deliver_call_of_no_expansion (hl : s.stall = none) {c : HostCall} (h : hostExpansion s.cfg c = none) :
    deliver (.call c) s = .refused .noDelimiter := by
  rw [deliver, whenLive_of_live hl, hostCall, h]

end

/-! ### The characters of a text, and the bytes of its checksum -/

theorem beforeNul_of_ended {text : List Byte} (h : ∀ x ∈ text, x ≠ 0x00) (after : List Byte) :
    beforeNul (text ++ 0x00 :: after) = text := by
  rw [beforeNul, List.takeWhile_append_of_pos (by simpa using h), List.takeWhile_cons_of_neg (by simp),
    List.append_nil]

theorem beforeNul_of_nulFree {text : List Byte} (h : ∀ x ∈ text, x ≠ 0x00) : beforeNul text = text :=
  List.takeWhile_eq_self_iff.2 (by simpa using h)

theorem checksumBytes_of_delimiter {text before rest : List Byte} (h : beforeNul text = before ++ 0x24 :: rest)
    (hfirst : ∀ x ∈ before, x ≠ 0x24) : checksumBytes text = some (rest.filter (fun x => x ≠ 0x24)) := by
  rw [checksumBytes, h, List.dropWhile_append_of_pos (by simpa using hfirst), List.dropWhile_cons_of_neg (by simp)]
  simp [bne, beq_eq_decide]

theorem checksum_of_no_delimiter {text : List Byte} (h : ∀ x ∈ beforeNul text, x ≠ 0x24) : checksum text = none := by
  rw [checksum, checksumBytes, List.dropWhile_eq_nil_iff.2 (by simpa using h), Option.map_none]

/-- Settles O50: the text up to its NUL is cut at its first `$`, and without one the sentence has no expansion (D37). -/
theorem checksumSkipsDelimiters : Obligations.ChecksumSkipsDelimiters := by
  intro before text after hbefore htext
  have hdelimiter : ∀ x ∈ before, x ≠ 0x24 := fun x hx => (hbefore x hx).1
  have hnul : ∀ x ∈ before, x ≠ 0x00 := fun x hx => (hbefore x hx).2
  have hnone : checksum (before ++ 0x00 :: after) = none :=
    checksum_of_no_delimiter (by rwa [beforeNul_of_ended hnul])
  have hsentence : txSentence (before ++ 0x00 :: after) = none := by rw [txSentence, hnone, Option.map_none]
  refine ⟨?_, hnone, fun s hl => deliver_call_of_no_expansion hl hsentence⟩
  have hended : ∀ x ∈ before ++ 0x24 :: text, x ≠ 0x00 :=
    List.forall_mem_append.2 ⟨hnul, List.forall_mem_cons.2 ⟨by decide, htext⟩⟩
  rw [checksum, checksumBytes_of_delimiter (beforeNul_of_ended hended after) hdelimiter, Option.map_some]

/-- Settles O52: the suffix has no NUL, so that all six of its characters are sent after the text's. -/
theorem sentenceSendsTextThenSuffix : Obligations.SentenceSendsTextThenSuffix := by
  intro s text after hl htext
  have hstring : txString (text ++ 0x00 :: after) = text.flatMap sendCharacter := by
    rw [txString, beforeNul_of_ended htext]
  refine ⟨deliver_call_of_expansion hl (congrArg some hstring), fun c hc => deliver_call_of_expansion hl ?_⟩
  change txSentence (text ++ 0x00 :: after) = some ((text ++ checksumSuffix c).flatMap sendCharacter)
  rw [txSentence, hc, Option.map_some, hstring, txString, beforeNul_of_nulFree (checksumSuffix_ne_nul c),
    List.flatMap_append]

/-! ### A turn -/

section
variable {s : State} (hl : s.stall = none)
include hl

/-- One poll of a wait (R134): the status read of O18, and the wait leaves the script if the response ends it. -/
theorem hostPoll_of_live (ends : StWord → Bool) (rest : List HostOp) :
    hostPoll ends rest s = .next { s with
      answers := s.answers ++ [statusWord s], bufferHeld := if s.rem = 0 then [] else s.bufferHeld
      script := if ends (statusWord s) then rest else s.script } := by
  refine hostPoll_eq_next.2 ⟨_, statusReadAnswers s hl, ?_⟩
  cases ends (statusWord s) <;> rfl

theorem deliver_hostTurn_of_live : deliver .hostTurn s = hostTurn s := whenLive_of_live hl _

end

/-- Settles O53: each head of the script has its turn, and the two waits are one poll with the field of the response
that ends it. -/
theorem hostWaitsPollStatus : Obligations.HostWaitsPollStatus := by
  intro s rest base n hl
  rw [deliver_hostTurn_of_live hl, hostTurn]
  refine ⟨deliver_call_of_expansion hl rfl, fun hs => ?_, fun hs => ?_, fun hs => ?_, fun i hs => ?_⟩
  · simp only [hs, hostPoll_of_live hl, statusDone_statusWord]
  · simp only [hs, hostPoll_of_live hl, statusRem_statusWord, beq_iff_eq]
  · rw [hs]
  · rw [hs]

end Sys2Proof.Machine
end

section
/-! The step with nothing arrived (spec/60_exceptions.md R165; log 1). -/

namespace Sys2Proof.Machine

/-- With an empty inbox only the check on the parameters stands between the state and itself. -/
theorem step_of_inbox_nil {s : State} (hi : s.inbox = []) : step s = whenConfigOk s (.next s) := by
  simp only [step, cycle, hi]

/-- Settles O6: the one check left to a step with nothing arrived is the one a legal configuration passes. -/
theorem quietMachineRests : Obligations.QuietMachineRests := by
  intro s hc hi
  exact (step_of_inbox_nil hi).trans (whenConfigOk_of_configOk hc _)

end Sys2Proof.Machine
end

section
/-! What a reset leaves (spec/70_reset_and_hazards.md R172, R174), the settings a transmission keeps frozen (R179), and
the host's `BOOT` (R175), one turn a command. -/

namespace Sys2Proof.Machine

/-! ### Reset -/

theorem endStall_of_live {s : State} (hl : s.stall = none) : endStall s = s := by
  rw [endStall, hl]

/-- The register values of R40 read as a status word of 0 (R35). -/
theorem statusWord_of_registers_reset {s : State} (hr : s.registers = Registers.reset) : statusWord s = 0 := by
  simp only [State.registers, Registers.reset, Registers.mk.injEq] at hr
  obtain ⟨-, -, -, -, htxs, -, -, -, -, hrem, hdone, hmode, hbaud, hsch, hsyn⟩ := hr
  rw [statusWord, htxs, hrem, hdone, hmode, hbaud, hsch, hsyn]
  decide

/-- Settles O36: with no hang to end, a reset writes the registers of R40 and drops what the host held and had to do. -/
theorem resetRestoresRegisters : Obligations.ResetRestoresRegisters := by
  intro s hl
  have hreset : exec .reset s = .next { resetRegisters s with script := [], bufferHeld := [] } := by
    rw [exec, execReset, endStall_of_live hl]
  exact ⟨_, hreset, rfl, hl, rfl, rfl, rfl, rfl, rfl, rfl, rfl, rfl, rfl, rfl, statusWord_of_registers_reset rfl⟩

/-! ### The settings during a transmission -/

/-- Settles O41: the writers of `MODE`, `BAUD` and `RBYTE` (O42) are the commands that need an idle block (R92). -/
theorem modeFrozenDuringTransmission : Obligations.ModeFrozenDuringTransmission := by
  intro i s t h hbusy hr
  obtain ⟨hrbyte, -, -, -, -, -, -, -, -, -, -, hmode, hbaud, -⟩ := registersChangeOnlyByTheirWriters i s t h hr
  refine ⟨hmode.resolve_right ?_, hbaud.resolve_right ?_, hrbyte.resolve_right ?_⟩
  · rintro (rfl | rfl)
    · obtain ⟨-, hidle, -⟩ := exec_next h
      exact hbusy hidle
    · obtain ⟨-, hidle, -⟩ := exec_next h
      exact hbusy hidle
  · rintro ⟨p, rfl⟩
    obtain ⟨-, hidle, -⟩ := exec_next h
    exact hbusy hidle
  · rintro ⟨b, rfl⟩
    obtain ⟨-, hidle, -⟩ := exec_next h
    exact hbusy hidle

/-! ### Turns of a host with commands to give -/

section
variable {s : State} (hl : s.stall = none)
include hl

/-- A turn with a command to give is that command, which leaves the script (R133). -/
theorem hostTurns_command {i : Instr} {rest : List HostOp} {t : State} (hs : s.script = .command i :: rest)
    (h : exec i { s with script := rest } = .next t) (n : Nat) : hostTurns (n + 1) s = hostTurns n t := by
  have hturn : deliver .hostTurn s = .next t := by
    rw [deliver_hostTurn_of_live hl, hostTurn, hs]
    exact h
  rw [hostTurns, hturn]

/-- A step of a procedure that may be omitted (R175): one turn and the command, or no turn and no effect. -/
theorem hostTurns_optional {α : Type} {o : Option α} {cmd : α → Instr} {rest : List HostOp} {t : State}
    (hs : s.script = (o.toList.map fun a => .command (cmd a)) ++ rest)
    (hnone : o = none → t = { s with script := rest })
    (hsome : ∀ a, o = some a → exec (cmd a) { s with script := rest } = .next t) (n : Nat) :
    hostTurns (n + o.toList.length) s = hostTurns n t := by
  cases o with
  | none =>
    obtain rfl : s.script = rest := hs
    rw [hnone rfl]
    rfl
  | some a => exact hostTurns_command hl hs (hsome a rfl) n

end

/-! ### `BOOT` -/

/-- The host's operations of steps 2 and 3 (R175). -/
def settingsScript (preset : Option (BitVec 1)) (mode : Option Mode) : List HostOp :=
  (preset.toList.map fun p => .command (.setBaud p)) ++ mode.toList.map fun m => .command (modeCommand m)

theorem bootScript_eq (c : Config) (preset : Option (BitVec 1)) (mode : Option Mode) :
    bootScript c preset mode = .command (.dacWrite c.chCoarse c.baseFreq) :: settingsScript preset mode := rfl

/-- A block with steps 2 and 3 done: the chosen preset (R86) and mode (R84, R85), or the ones before where the step is
omitted. -/
def withSettings (preset : Option (BitVec 1)) (mode : Option Mode) (s : State) : State :=
  { s with
    baud := preset.elim s.baud baudOf
    mode := mode.getD s.mode
    synEn := mode == some .afsk || s.synEn
    script := [] }

section
variable {s : State} (hl : s.stall = none) (hidle : s.txs = .idle)
include hl hidle

/-- Step 3, whose two commands both need an idle block (R84, R85). -/
theorem hostTurns_modeStep {mode : Option Mode} (hs : s.script = settingsScript none mode) :
    hostTurns mode.toList.length s = .next (withSettings none mode s) := by
  have hturns : hostTurns (0 + mode.toList.length) s = hostTurns 0 (withSettings none mode s) := by
    refine hostTurns_optional hl (hs.trans (List.append_nil _).symm) ?_ ?_ 0
    · rintro rfl; rfl
    · rintro (_ | _) rfl
      · exact idleGate_opens hl hidle _ _
      · exact idleGate_opens hl hidle _ _
  rwa [Nat.zero_add] at hturns

/-- Steps 2 and 3: the block stays idle between them. -/
theorem hostTurns_settingsScript {preset : Option (BitVec 1)} {mode : Option Mode}
    (hs : s.script = settingsScript preset mode) :
    hostTurns (mode.toList.length + preset.toList.length) s = .next (withSettings preset mode s) := by
  have hmode := hostTurns_modeStep (mode := mode)
    (s := { s with script := settingsScript none mode, baud := preset.elim s.baud baudOf }) hl hidle rfl
  refine (hostTurns_optional hl hs ?_ ?_ _).trans hmode
  · rintro rfl; rfl
  · rintro p rfl; exact idleGate_opens hl hidle _ _

end

/-- Settles O54: the frame of step 1 is whole on a ready bus (O15) and sets the Coarse channel, and it leaves the block
idle for steps 2 and 3. -/
theorem bootWritesBaseCarrier : Obligations.BootWritesBaseCarrier := by
  intro s preset mode _ hready hidle hfree hcut hscript
  have hl : s.stall = none := hready.1
  have hcall : deliver (.call (.boot preset mode)) s = .next { s with script := bootScript s.cfg preset mode } := by
    rw [deliver_call_of_expansion hl rfl, hscript, List.nil_append]
  have hturns : hostTurns (1 + preset.toList.length + mode.toList.length)
      { s with script := bootScript s.cfg preset mode } =
        .next (withSettings preset mode (wrote s.cfg.chCoarse s.cfg.baseFreq s)) := by
    obtain ⟨hwrite, -⟩ :=
      dacWriteSendsWord { s with script := settingsScript preset mode } s.cfg.chCoarse s.cfg.baseFreq hl
    have hlength : 1 + preset.toList.length + mode.toList.length =
        mode.toList.length + preset.toList.length + 1 := by omega
    rw [hlength, hostTurns_command (s := { s with script := bootScript s.cfg preset mode }) hl (bootScript_eq ..)
      (hwrite (.inl rfl) hidle hfree hready)]
    exact hostTurns_settingsScript
      (s := wrote s.cfg.chCoarse s.cfg.baseFreq { s with script := settingsScript preset mode }) hl hidle rfl
  have hcarrier : (wrote s.cfg.chCoarse s.cfg.baseFreq s).dac = { s.dac with coarse := some s.cfg.baseFreq } := by
    rw [wrote_dac, DacDevice.frame_coarse hcut, hiByte_append_loByte]
  refine ⟨_, _, hcall, hturns, hcarrier, rfl, ?_, rfl, rfl⟩
  cases preset with
  | none => rfl
  | some p => rfl

end Sys2Proof.Machine
end
